-- ==== Sys2Proof/Word.lean ====
section
/-! DEFINITION. The two widths of the CORE's values (spec/00_scope.md R7, R9). -/

namespace Sys2Proof

/-- `u8`: A, X, Y, P, a memory byte, an opcode (R7 `DATA_WIDTH`, R9). -/
abbrev Byte := BitVec 8

/-- `u16`: PC and every address (R7 `PC_WIDTH`, `ADDR_WIDTH`, R9). -/
abbrev Word := BitVec 16

end Sys2Proof
end

