-- ==== Sys2Proof/Config.lean ====
section
/-! DEFINITION. The implementation parameters of spec/00_scope.md R7: the OPEN one as a field of Config, the fixed ones as constants. -/

namespace Sys2Proof

/-- The two values of the OPEN parameter `LDA_EXTENDED_MODES` (spec/92_eei_decisions.md D2). -/
inductive LdaExtendedModes where
  /-- The seven non-immediate LDA opcodes are LDA (the spec's default). -/
  | admitted
  /-- A program that fetches one of the seven bytes as an opcode is refused. -/
  | refused
  deriving DecidableEq, Repr

/-- The parameters R7 leaves OPEN: an argument of decoding and of the step (log entry 3). -/
structure Config where
  ldaExtendedModes : LdaExtendedModes
  deriving DecidableEq, Repr

/-- The spec's default configuration (R7: `LDA_EXTENDED_MODES` is admitted). DESIGN CHOICE: `step` and `core` run with it (log entry 3). -/
def Config.standard : Config := { ldaExtendedModes := .admitted }

/-- `LOAD_ORIGIN` (R7, R109). -/
def Config.loadOrigin : Word := 0x8000#16

/-- `RESET_VECTOR`, the address of the low byte (R7, R111). -/
def Config.resetVector : Word := 0xFFFC#16

/-- `HALT_OPCODE` (R7, R74). -/
def Config.haltOpcode : Byte := 0x00#8

/-- `Z_BIT` (R7, R21). -/
def Config.zBit : Nat := 1

/-- `N_BIT` (R7, R21). -/
def Config.nBit : Nat := 7

/-- `MAX_PROGRAM_LEN`, in bytes (R7, R96, R109). -/
def Config.maxProgramLen : Nat := 0x8000

end Sys2Proof
end

