-- ==== Sys2Proof/Syntax.lean ====
section
/-! DEFINITION. The instructions of the CORE: one constructor per mnemonic of spec/opcode_table.json, in the table's order (spec/30_encoding.md R50, R53). -/

namespace Sys2Proof

/-- An instruction with its operand bytes (R47, R49). The 245 NOP_UNMAPPED rows are one constructor, told apart by their opcode byte. -/
inductive Instr where
  /-- HALT, opcode 0x00, assembled as `BRK` (R74). -/
  | halt
  /-- NOP_UNMAPPED: an opcode byte that R50's table does not map (R53, R75). -/
  | nopUnmapped (op : Byte)
  /-- LDA (zp,X), opcode 0xA1 (R87). -/
  | ldaIndX (b1 : Byte)
  /-- LDA zp, opcode 0xA5 (R82). -/
  | ldaZp (b1 : Byte)
  /-- LDA #imm, opcode 0xA9 (R81). -/
  | ldaImm (b1 : Byte)
  /-- TAX, opcode 0xAA (R89). -/
  | tax
  /-- LDA abs, opcode 0xAD; the operand is `hi:lo` (R84, R49). -/
  | ldaAbs (addr : Word)
  /-- LDA (zp),Y, opcode 0xB1 (R88). -/
  | ldaIndY (b1 : Byte)
  /-- LDA zp,X, opcode 0xB5 (R83). -/
  | ldaZpX (b1 : Byte)
  /-- LDA abs,Y, opcode 0xB9 (R86). -/
  | ldaAbsY (addr : Word)
  /-- LDA abs,X, opcode 0xBD (R85). -/
  | ldaAbsX (addr : Word)
  /-- INX, opcode 0xE8 (R90). -/
  | inx
  deriving DecidableEq, Repr

end Sys2Proof
end

