-- ==== Sys2Proof/WellFormed.lean ====
section
/-! DEFINITION. Which terms of Instr are instructions of the CORE (spec/30_encoding.md R50, R53). -/

namespace Sys2Proof

/-- The eleven opcode bytes R50's table maps. -/
def mappedOpcodes : List Byte :=
  [0x00#8, 0xA1#8, 0xA5#8, 0xA9#8, 0xAA#8, 0xAD#8, 0xB1#8, 0xB5#8, 0xB9#8, 0xBD#8, 0xE8#8]

/-- The one check: a NOP_UNMAPPED carries an unmapped byte (R53). Every operand value of every other instruction is admitted (R49). -/
def Instr.wf : Instr → Bool
  | .nopUnmapped op => !mappedOpcodes.contains op
  | .halt => true
  | .ldaIndX _ => true
  | .ldaZp _ => true
  | .ldaImm _ => true
  | .tax => true
  | .ldaAbs _ => true
  | .ldaIndY _ => true
  | .ldaZpX _ => true
  | .ldaAbsY _ => true
  | .ldaAbsX _ => true
  | .inx => true

end Sys2Proof
end

