-- ==== Sys2Proof/Decode.lean ====
section
/-! DEFINITION. The opcode table, the decoder and the encoder (spec/30_encoding.md R47 to R55). -/

namespace Sys2Proof

/-- The ten addressing-mode tags (spec/40_addressing_modes.md R58). -/
inductive Mode where
  | immediate
  | zeroPage
  | zeroPageX
  | zeroPageY
  | absolute
  | absoluteX
  | absoluteY
  | indirectX
  | indirectY
  | noneAddressing
  deriving DecidableEq, Repr

/-- What an opcode does: the handler of R47's instruction record. -/
inductive Operation where
  | halt
  | lda
  | tax
  | inx
  | nop
  deriving DecidableEq, Repr

/-- An instruction record: opcode byte, handler, addressing mode (R47). Its operand byte width follows from the mode (R48). -/
structure Entry where
  opcode : Byte
  operation : Operation
  mode : Mode
  deriving DecidableEq, Repr

/-- Why bytes are not an instruction. -/
inductive DecodeError where
  /-- There is no opcode byte. -/
  | noOpcode
  /-- The list ends before the operand bytes the mode asks for (R48). -/
  | truncated
  /-- LDA in a mode no opcode gives it: ZeroPage,Y or NoneAddressing (R50, R63). The opcode table holds no such row. -/
  | noSuchForm
  /-- One of the seven non-immediate LDA opcodes, with `LDA_EXTENDED_MODES` refused (D2). -/
  | extendedModeRefused (opcode : Byte)
  deriving DecidableEq, Repr

/-- The operand byte width of a mode (R48). -/
def Mode.width : Mode → Nat
  | .noneAddressing => 0
  | .immediate => 1
  | .zeroPage => 1
  | .zeroPageX => 1
  | .zeroPageY => 1
  | .indirectX => 1
  | .indirectY => 1
  | .absolute => 2
  | .absoluteX => 2
  | .absoluteY => 2

/-- The mapped rows of R50. PRESUMED: the seven LDA opcodes besides 0xA9 are the family's (log entry 4). -/
def opcodeTable : List Entry :=
  [ ⟨Config.haltOpcode, .halt, .noneAddressing⟩,
    ⟨0xA1#8, .lda, .indirectX⟩,
    ⟨0xA5#8, .lda, .zeroPage⟩,
    ⟨0xA9#8, .lda, .immediate⟩,
    ⟨0xAA#8, .tax, .noneAddressing⟩,
    ⟨0xAD#8, .lda, .absolute⟩,
    ⟨0xB1#8, .lda, .indirectY⟩,
    ⟨0xB5#8, .lda, .zeroPageX⟩,
    ⟨0xB9#8, .lda, .absoluteY⟩,
    ⟨0xBD#8, .lda, .absoluteX⟩,
    ⟨0xE8#8, .inx, .noneAddressing⟩ ]

/-- `DECODE[op]`: total over the 256 bytes, an unmapped byte being a NOP_UNMAPPED of width 0 (R50, R53). -/
def entryOf (op : Byte) : Entry :=
  (opcodeTable.find? (fun e => e.opcode == op)).getD ⟨op, .nop, .noneAddressing⟩

/-- The length in bytes of the instruction an opcode byte starts (R48, R55). -/
def instrLength (op : Byte) : Nat := 1 + (entryOf op).mode.width

/-- `{hi, lo}` (R8): `hi` in the upper bits. -/
def joinBytes (hi lo : Byte) : Word := hi ++ lo

/-- Bits [7:0] of a 16-bit value (R8). -/
def lowByte (w : Word) : Byte := w.extractLsb' 0 8

/-- Bits [15:8] of a 16-bit value (R8). -/
def highByte (w : Word) : Byte := w.extractLsb' 8 8

/-- The LDA of a mode, its operand taken from the bytes after the opcode (R47, R49). -/
def decodeLda (mode : Mode) (rest : List Byte) : Except DecodeError (Instr × List Byte) :=
  match mode, rest with
  | .immediate, b1 :: tail => .ok (.ldaImm b1, tail)
  | .zeroPage, b1 :: tail => .ok (.ldaZp b1, tail)
  | .zeroPageX, b1 :: tail => .ok (.ldaZpX b1, tail)
  | .absolute, lo :: hi :: tail => .ok (.ldaAbs (joinBytes hi lo), tail)
  | .absoluteX, lo :: hi :: tail => .ok (.ldaAbsX (joinBytes hi lo), tail)
  | .absoluteY, lo :: hi :: tail => .ok (.ldaAbsY (joinBytes hi lo), tail)
  | .indirectX, b1 :: tail => .ok (.ldaIndX b1, tail)
  | .indirectY, b1 :: tail => .ok (.ldaIndY b1, tail)
  | .zeroPageY, _ => .error .noSuchForm
  | .noneAddressing, _ => .error .noSuchForm
  | _, _ => .error .truncated

/-- The instruction the bytes start with, and the bytes after it, under a configuration (R47, R50, R53, D2). -/
def decodeWith (c : Config) : List Byte → Except DecodeError (Instr × List Byte)
  | [] => .error .noOpcode
  | op :: rest =>
    match (entryOf op).operation with
    | .halt => .ok (.halt, rest)
    | .tax => .ok (.tax, rest)
    | .inx => .ok (.inx, rest)
    | .nop => .ok (.nopUnmapped op, rest)
    | .lda =>
      if c.ldaExtendedModes = .refused ∧ (entryOf op).mode ≠ .immediate then
        .error (.extendedModeRefused op)
      else
        decodeLda (entryOf op).mode rest

/-- The decoder of the CORE as specified: `LDA_EXTENDED_MODES` admitted. -/
def decode (bytes : List Byte) : Except DecodeError (Instr × List Byte) :=
  decodeWith Config.standard bytes

/-- The bytes of an instruction, lowest address first (R47, R49, R50). -/
def encode : Instr → List Byte
  | .halt => [0x00#8]
  | .nopUnmapped op => [op]
  | .ldaIndX b1 => [0xA1#8, b1]
  | .ldaZp b1 => [0xA5#8, b1]
  | .ldaImm b1 => [0xA9#8, b1]
  | .tax => [0xAA#8]
  | .ldaAbs w => [0xAD#8, lowByte w, highByte w]
  | .ldaIndY b1 => [0xB1#8, b1]
  | .ldaZpX b1 => [0xB5#8, b1]
  | .ldaAbsY w => [0xB9#8, lowByte w, highByte w]
  | .ldaAbsX w => [0xBD#8, lowByte w, highByte w]
  | .inx => [0xE8#8]

/-- The three bytes (the longest instruction, R47) of an instruction numbered as spec/opcode_table.json numbers it:
the first byte is bits 7..0, and every bit from `nbits` up is 0. -/
def tableWordBytes (nbits w : Nat) : List Byte :=
  let v := w % 2 ^ nbits
  [BitVec.ofNat 8 v, BitVec.ofNat 8 (v / 2 ^ 8), BitVec.ofNat 8 (v / 2 ^ 16)]

/-- What the decoder reads from an instruction whose bits, numbered as spec/opcode_table.json numbers them, are `w`. -/
def decodeTableWord (nbits w : Nat) : Option Instr :=
  match decode (tableWordBytes nbits w) with
  | .ok (i, _) => some i
  | .error _ => none

end Sys2Proof
end

