-- ==== Sys2Proof/Machine/State.lean ====
section
/-! DEFINITION. The state of the CORE, its reset value, and the reasons a step stops (spec/10_state.md, spec/20_memory.md R30). -/

namespace Sys2Proof.Machine

/-- The run state of the dispatch loop (R25). -/
inductive RunState where
  | running
  | halted
  deriving DecidableEq, Repr

/-- The fault record `UnsupportedAddressingMode { opcode, pc_of_opcode }` (R26, R95). -/
structure FaultRecord where
  opcode : Byte
  pcOfOpcode : Word
  deriving DecidableEq, Repr

/-- The 64 KiB RAM of R30 as (address, byte) pairs in canonical form: `Memory.wf`. -/
abbrev Memory := List Host.Cell

/-- What an address that is not listed reads as: `new()` zeroes every byte (R108, D22). -/
def Memory.unlisted : Byte := 0x00#8

/-- The canonical form: addresses strictly rising, each below 65536, and no entry equal to `Memory.unlisted`. -/
def Memory.wf : Memory → Bool
  | [] => true
  | (k, v) :: rest =>
    decide (k < 65536) && decide (v ≠ Memory.unlisted) && rest.all (fun c => decide (k < c.1)) && Memory.wf rest

/-- The processor state: the five fields of R15, the address space of R30, the run state (R25) and the fault record (R26). -/
structure State where
  /-- The accumulator (R16). -/
  a : Byte
  /-- Index register X (R17). -/
  x : Byte
  /-- Index register Y (R18). -/
  y : Byte
  /-- The status byte P: Z is bit 1, N is bit 7, the other bits are storage (R21, R22). -/
  p : Byte
  /-- The program counter (R20). -/
  pc : Word
  /-- The address space (R30). -/
  mem : Memory
  /-- Running or Halted (R25). -/
  runState : RunState
  /-- Empty, or the sticky fault record (R26). -/
  fault : Option FaultRecord
  deriving DecidableEq, Repr

/-- Why the CORE stops. -/
inductive Fault where
  /-- Raised by `stepWith` in a state whose fault record is set: the CORE takes no further step (R26, R95). The record was set by
  `raiseUnsupportedAddressingMode`. SAFE: the spec's own stop, and no claim can be proved past it. -/
  | unsupportedAddressingMode (record : FaultRecord)
  deriving DecidableEq, Repr

/-- Why the model gives no meaning. -/
inductive Refusal where
  /-- An instruction without a meaning, by its mnemonic. No arm of `exec` answers it. SAFE. -/
  | notModelled (mnemonic : String)
  /-- Raised by `stepWith` where `LDA_EXTENDED_MODES` is refused and the fetched opcode is one of the seven it governs (D2).
  Never with the default configuration, which `step` uses. SAFE: the spec asks for this refusal. -/
  | extendedModeRefused (opcode : Byte)
  /-- Raised by `stepWith` where the fetched bytes are no instruction. The fetch reads as many bytes as the opcode's length
  (R55), and decoding is total over opcodes (R50), so no state raises it. SAFE. -/
  | undecodable
  deriving DecidableEq, Repr

/-- The CORE after `new()` (spec/70_reset_and_hazards.md R108); `reset()` leaves a new CORE in the same state (R111, R114). -/
def State.reset : State :=
  { a := 0x00#8, x := 0x00#8, y := 0x00#8, p := 0x00#8, pc := 0x0000#16, mem := [], runState := .halted, fault := none }

end Sys2Proof.Machine
end

