-- ==== Sys2Proof/Machine/Ops.lean ====
section
/-! DEFINITION. The named operations over memory and registers, the fetch, and the one fault entry (spec/20_memory.md, spec/10_state.md R28, spec/60_exceptions.md R95). -/

namespace Sys2Proof.Machine

/-- The byte listed for an address, or `Memory.unlisted`. -/
def Memory.get : Memory → Nat → Byte
  | [], _ => Memory.unlisted
  | (k, v) :: rest, n => if k = n then v else Memory.get rest n

/-- The memory without an entry for an address. -/
def Memory.erase (m : Memory) (n : Nat) : Memory := m.filter (fun c => decide (c.1 ≠ n))

/-- The memory with an entry added before the first higher address. -/
def Memory.insert : Memory → Nat → Byte → Memory
  | [], n, v => [(n, v)]
  | (k, w) :: rest, n, v => if n < k then (n, v) :: (k, w) :: rest else (k, w) :: Memory.insert rest n v

/-- The memory with one byte replaced. Writing `Memory.unlisted` removes the entry, which keeps the canonical form. -/
def Memory.set (m : Memory) (n : Nat) (v : Byte) : Memory :=
  if v = Memory.unlisted then Memory.erase m n else Memory.insert (Memory.erase m n) n v

/-- `MemRead(addr, 1)` (R31). -/
def Memory.read (m : Memory) (addr : Word) : Byte := Memory.get m addr.toNat

/-- `MemWrite(addr, 1, v)` (R32). -/
def Memory.write (m : Memory) (addr : Word) (v : Byte) : Memory := Memory.set m addr.toNat v

/-- `MemRead16(addr)`: little-endian, the high byte at `addr +16 1`, which wraps at 0xFFFF (R33, R35). -/
def Memory.read16 (m : Memory) (addr : Word) : Word :=
  joinBytes (Memory.read m (addr + 1#16)) (Memory.read m addr)

/-- `MemWrite16(addr, v)`: the low byte at `addr`, then the high byte at `addr +16 1` (R34, R35). -/
def Memory.write16 (m : Memory) (addr : Word) (v : Word) : Memory :=
  Memory.write (Memory.write m addr (lowByte v)) (addr + 1#16) (highByte v)

/-- `n` bytes at rising addresses, each the previous one `+16 1` (R47). -/
def Memory.readBytes (m : Memory) (addr : Word) : Nat → List Byte
  | 0 => []
  | n + 1 => Memory.read m addr :: Memory.readBytes m (addr + 1#16) n

/-- Bytes written at rising addresses, each the previous one `+16 1` (R109). -/
def Memory.writeBytes (m : Memory) (addr : Word) : List Byte → Memory
  | [] => m
  | b :: rest => Memory.writeBytes (Memory.write m addr b) (addr + 1#16) rest

/-- The bytes of the instruction at an address: the opcode, and as many operand bytes as its mode asks for (R47, R55).
DEDUCED: they are read together, which reads that are pure cannot show (R31, log entry 2). -/
def fetchBytes (m : Memory) (pc : Word) : List Byte :=
  Memory.readBytes m pc (instrLength (Memory.read m pc))

/-- `A <- v` (R11, R28). -/
def State.withA (s : State) (v : Byte) : State := { s with a := v }

/-- `X <- v` (R11, R28). -/
def State.withX (s : State) (v : Byte) : State := { s with x := v }

/-- `Y <- v`: the host's, no instruction writes Y (R18, R28). -/
def State.withY (s : State) (v : Byte) : State := { s with y := v }

/-- `P <- v` (R11, R28). -/
def State.withP (s : State) (v : Byte) : State := { s with p := v }

/-- `PC <- v` (R11, R28). -/
def State.withPc (s : State) (v : Word) : State := { s with pc := v }

/-- The state over another memory. -/
def State.withMem (s : State) (m : Memory) : State := { s with mem := m }

/-- `run_state <- r` (R25). -/
def State.withRunState (s : State) (r : RunState) : State := { s with runState := r }

/-- `PC <- PC +16 n` (R20, R72). -/
def State.advance (s : State) (n : Nat) : State := State.withPc s (s.pc + BitVec.ofNat 16 n)

/-- `raise UnsupportedAddressingMode(opcode, pc_of_opcode)`, in a state whose PC the fetch has already advanced: the record is set
and nothing else changes (R95, R99). DEDUCED: a next state, after which `stepWith` stops (log entry 6). -/
def raiseUnsupportedAddressingMode (opcode : Byte) (pcOfOpcode : Word) (s : State) : State :=
  { s with fault := some { opcode := opcode, pcOfOpcode := pcOfOpcode } }

/-- The name a step refuses bytes under that do not decode. -/
def refusalOf : DecodeError → Refusal
  | .extendedModeRefused op => .extendedModeRefused op
  | .noOpcode => .undecodable
  | .truncated => .undecodable
  | .noSuchForm => .undecodable

end Sys2Proof.Machine
end

