-- ==== Sys2Proof/Machine/Control.lean ====
section
/-! DEFINITION. The halt opcode and the unmapped no-op (spec/41_dispatch.md R74, R75). -/

namespace Sys2Proof.Machine

/-- HALT: the run state, and PC one past the halt byte; no push, no flag, no vector (R74, D16). -/
def execHalt (s : State) : Host.Outcome State Fault Refusal :=
  .next (State.advance (State.withRunState s .halted) 1)

/-- NOP_UNMAPPED: PC moves past the opcode byte, whatever the byte is (R75, D3). -/
def execNopUnmapped (_op : Byte) (s : State) : Host.Outcome State Fault Refusal :=
  .next (State.advance s 1)

end Sys2Proof.Machine
end

