-- ==== Sys2Proof/Machine/Flags.lean ====
section
/-! DEFINITION. The one flag computation of the CORE (spec/10_state.md R23). -/

namespace Sys2Proof.Machine

/-- A byte with one bit replaced. -/
def setBit (v : Byte) (n : Nat) (b : Bool) : Byte :=
  if b then v ||| (1#8 <<< n) else v &&& ~~~(1#8 <<< n)

/-- The status byte after `update_zero_and_negative(r)`: Z and N recomputed, the other six bits kept (R22, R23). -/
def flagUpdate (p r : Byte) : Byte :=
  setBit (setBit p Config.zBit (r == 0x00#8)) Config.nBit (r.getLsbD 7)

/-- `update_zero_and_negative(r)`, the only writer of P among the instructions (R23). -/
def updateZeroAndNegative (s : State) (r : Byte) : State := State.withP s (flagUpdate s.p r)

end Sys2Proof.Machine
end

