-- ==== Sys2Proof/Machine/Operands.lean ====
section
/-! DEFINITION. Effective addresses and the addressing-mode resolver (spec/40_addressing_modes.md). -/

namespace Sys2Proof.Machine

/-- `zext_16` (R9). -/
def zext16 (b : Byte) : Word := b.setWidth 16

/-- ZeroPage (R61). -/
def eaZeroPage (b : Byte) : Word := zext16 b

/-- ZeroPage,X and ZeroPage,Y: the 8-bit sum, which never leaves page 0 (R59, R62, R63). -/
def eaZeroPageIndexed (b index : Byte) : Word := zext16 (b + index)

/-- Absolute,X and Absolute,Y: the 16-bit sum (R59, R65, R66). -/
def eaAbsoluteIndexed (base : Word) (index : Byte) : Word := base + zext16 index

/-- `zp16(p)`: the pointer at a zero-page address, its high byte fetched within page 0 (R67, R68, R70). -/
def zeroPagePointer (m : Memory) (p : Byte) : Word :=
  joinBytes (Memory.read m (zext16 (p + 1#8))) (Memory.read m (zext16 p))

/-- Indirect,X: the index is added to the pointer's address (R67). -/
def eaIndirectX (m : Memory) (b x : Byte) : Word := zeroPagePointer m (b + x)

/-- Indirect,Y: the index is added to the address the pointer holds (R68). -/
def eaIndirectY (m : Memory) (b y : Byte) : Word := zeroPagePointer m b + zext16 y

/-- What the resolver answers (R57). -/
inductive EA where
  /-- Use this address. -/
  | addr (a : Word)
  /-- The operand is the immediate byte at this address, which is PC. -/
  | imm (a : Word)
  deriving DecidableEq, Repr

/-- The address a handler reads: `Imm(a)` and `Addr(a)` both mean the byte at `a` (R57). -/
def EA.address : EA → Word
  | .addr a => a
  | .imm a => a

/-- The resolver, `pc` being the address of the first operand byte; `none` where it raises UnsupportedAddressingMode (R57 to R70). -/
def resolve (mode : Mode) (pc : Word) (x y : Byte) (m : Memory) : Option EA :=
  match mode with
  | .immediate => some (.imm pc)
  | .zeroPage => some (.addr (eaZeroPage (Memory.read m pc)))
  | .zeroPageX => some (.addr (eaZeroPageIndexed (Memory.read m pc) x))
  | .zeroPageY => some (.addr (eaZeroPageIndexed (Memory.read m pc) y))
  | .absolute => some (.addr (Memory.read16 m pc))
  | .absoluteX => some (.addr (eaAbsoluteIndexed (Memory.read16 m pc) x))
  | .absoluteY => some (.addr (eaAbsoluteIndexed (Memory.read16 m pc) y))
  | .indirectX => some (.addr (eaIndirectX m (Memory.read m pc) x))
  | .indirectY => some (.addr (eaIndirectY m (Memory.read m pc) y))
  | .noneAddressing => none

end Sys2Proof.Machine
end

