-- ==== Sys2Proof/Machine/Load.lean ====
section
/-! DEFINITION. LDA in its eight modes (spec/42_load_transfer_increment.md R80 to R88). Each meaning starts with PC at the opcode byte and ends with it past the instruction (R72). -/

namespace Sys2Proof.Machine

/-- `A <- v; update_zero_and_negative(A)`: the handler of every LDA (R80). -/
def loadA (s : State) (v : Byte) : State := updateZeroAndNegative (State.withA s v) v

/-- LDA #imm (R81): the operand is the value. -/
def execLdaImm (b1 : Byte) (s : State) : Host.Outcome State Fault Refusal :=
  .next (State.advance (loadA s b1) 2)

/-- LDA zp (R82, R61). -/
def execLdaZp (b1 : Byte) (s : State) : Host.Outcome State Fault Refusal :=
  .next (State.advance (loadA s (Memory.read s.mem (eaZeroPage b1))) 2)

/-- LDA zp,X (R83, R62). -/
def execLdaZpX (b1 : Byte) (s : State) : Host.Outcome State Fault Refusal :=
  .next (State.advance (loadA s (Memory.read s.mem (eaZeroPageIndexed b1 s.x))) 2)

/-- LDA abs (R84, R64). -/
def execLdaAbs (addr : Word) (s : State) : Host.Outcome State Fault Refusal :=
  .next (State.advance (loadA s (Memory.read s.mem addr)) 3)

/-- LDA abs,X (R85, R65). -/
def execLdaAbsX (addr : Word) (s : State) : Host.Outcome State Fault Refusal :=
  .next (State.advance (loadA s (Memory.read s.mem (eaAbsoluteIndexed addr s.x))) 3)

/-- LDA abs,Y (R86, R66). -/
def execLdaAbsY (addr : Word) (s : State) : Host.Outcome State Fault Refusal :=
  .next (State.advance (loadA s (Memory.read s.mem (eaAbsoluteIndexed addr s.y))) 3)

/-- LDA (zp,X) (R87, R67). -/
def execLdaIndX (b1 : Byte) (s : State) : Host.Outcome State Fault Refusal :=
  .next (State.advance (loadA s (Memory.read s.mem (eaIndirectX s.mem b1 s.x))) 2)

/-- LDA (zp),Y (R88, R68). -/
def execLdaIndY (b1 : Byte) (s : State) : Host.Outcome State Fault Refusal :=
  .next (State.advance (loadA s (Memory.read s.mem (eaIndirectY s.mem b1 s.y))) 2)

end Sys2Proof.Machine
end

