-- ==== Sys2Proof/Machine/Transfer.lean ====
section
/-! DEFINITION. TAX and INX (spec/42_load_transfer_increment.md R89, R90). -/

namespace Sys2Proof.Machine

/-- `X <- v; update_zero_and_negative(X)`: the handler of TAX and of INX (R89, R90). -/
def loadX (s : State) (v : Byte) : State := updateZeroAndNegative (State.withX s v) v

/-- TAX (R89). -/
def execTax (s : State) : Host.Outcome State Fault Refusal :=
  .next (State.advance (loadX s s.a) 1)

/-- INX: the sum wraps modulo 256 (R90). -/
def execInx (s : State) : Host.Outcome State Fault Refusal :=
  .next (State.advance (loadX s (s.x + 1#8)) 1)

end Sys2Proof.Machine
end

