-- ==== Sys2Proof/Machine/Dispatch.lean ====
section
/-! DEFINITION. One arm per instruction (spec/30_encoding.md R50, R53). -/

namespace Sys2Proof.Machine

def exec (i : Instr) (s : State) : Host.Outcome State Fault Refusal :=
  match i with
  | .halt => Sys2Proof.Machine.execHalt s
  | .nopUnmapped op => Sys2Proof.Machine.execNopUnmapped op s
  | .ldaIndX b1 => Sys2Proof.Machine.execLdaIndX b1 s
  | .ldaZp b1 => Sys2Proof.Machine.execLdaZp b1 s
  | .ldaImm b1 => Sys2Proof.Machine.execLdaImm b1 s
  | .tax => Sys2Proof.Machine.execTax s
  | .ldaAbs addr => Sys2Proof.Machine.execLdaAbs addr s
  | .ldaIndY b1 => Sys2Proof.Machine.execLdaIndY b1 s
  | .ldaZpX b1 => Sys2Proof.Machine.execLdaZpX b1 s
  | .ldaAbsY addr => Sys2Proof.Machine.execLdaAbsY addr s
  | .ldaAbsX addr => Sys2Proof.Machine.execLdaAbsX addr s
  | .inx => Sys2Proof.Machine.execInx s

end Sys2Proof.Machine
end

