-- ==== Sys2Proof/Machine/Cycle.lean ====
section
/-! DEFINITION. One fetch-decode-execute cycle under a configuration (spec/41_dispatch.md R71, R77). -/

namespace Sys2Proof.Machine

/-- Fetch, decode and execute one instruction, from a state whose fault record is empty (R71). -/
def cycle (c : Config) (s : State) : Host.Outcome State Fault Refusal :=
  match decodeWith c (fetchBytes s.mem s.pc) with
  | .ok (i, _) => exec i s
  | .error e => .refused (refusalOf e)

/-- The interface operation `step()`: it sets the run state to Running and performs one cycle (R77), and a CORE whose fault record
is set takes no step (R26). DEDUCED: this, not the loop's inner step, is the model's step (log entry 1). -/
def stepWith (c : Config) (s : State) : Host.Outcome State Fault Refusal :=
  match s.fault with
  | some r => .fault (.unsupportedAddressingMode r)
  | none => cycle c (State.withRunState s .running)

end Sys2Proof.Machine
end

