-- ==== Sys2Proof/Machine/Step.lean ====
section
/-! DEFINITION. The step of the CORE, and where its next instruction lies (spec/41_dispatch.md R71, R77). -/

namespace Sys2Proof.Machine

/-- One instruction, with the spec's default configuration: `LDA_EXTENDED_MODES` admitted (R77, log entries 1 and 3). -/
def step (s : State) : Host.Outcome State Fault Refusal := stepWith Config.standard s

/-- The state with an instruction stored at PC, in the numbering of spec/opcode_table.json (log entry 8). -/
def State.withFetchWord (s : State) (nbits w : Nat) : State :=
  State.withMem s (Memory.writeBytes s.mem s.pc (tableWordBytes nbits w))

end Sys2Proof.Machine
end

