-- ==== Sys2Proof/Machine/HostOps.lean ====
section
/-! DEFINITION. The interface operations besides step() (spec/00_scope.md R14; spec/41_dispatch.md R76, R77; spec/70_reset_and_hazards.md R108 to R113). Each is one transaction: a function of the state. -/

namespace Sys2Proof.Machine

/-- The CORE's error conditions with what each records (spec/60_exceptions.md R93, R94). -/
inductive CoreError where
  | unsupportedAddressingMode (record : FaultRecord)
  | programTooLarge (length : Nat)
  deriving DecidableEq, Repr

/-- The cause codes (R94). -/
def CoreError.code : CoreError → Nat
  | .unsupportedAddressingMode _ => 1
  | .programTooLarge _ => 2

/-- `new()` (R108). -/
def hostNew : State := State.reset

/-- `read(addr)` on the address space (R14, R31). -/
def hostRead (s : State) (addr : Word) : Byte := Memory.read s.mem addr

/-- `write(addr, v)` on the address space (R14, R32). -/
def hostWrite (s : State) (addr : Word) (v : Byte) : State := State.withMem s (Memory.write s.mem addr v)

/-- `load(program)`: the copy, then PC, then the reset vector, which wins where they overlap (R109, R110); too long a program is
rejected before any write (R96). DEDUCED: the fault record is not consulted (log entry 7). -/
def hostLoad (program : List Byte) (s : State) : Except CoreError State :=
  if Config.maxProgramLen < program.length then
    .error (.programTooLarge program.length)
  else
    let copied := State.withMem s (Memory.writeBytes s.mem Config.loadOrigin program)
    let entered := State.withPc copied Config.loadOrigin
    .ok (State.withMem entered (Memory.write16 entered.mem Config.resetVector Config.loadOrigin))

/-- `reset()` (R111). -/
def hostReset (s : State) : State :=
  State.withPc (State.withP (State.withY (State.withX (State.withA s 0x00#8) 0x00#8) 0x00#8) 0x00#8)
    (Memory.read16 s.mem Config.resetVector)

/-- `run_n(k)`: up to `k` times step(), ending early after a halt (R77). -/
def hostRunN (c : Config) : Nat → State → Host.Outcome State Fault Refusal
  | 0, s => .next s
  | k + 1, s =>
    match stepWith c s with
    | .next t => if t.runState = .halted then .next t else hostRunN c k t
    | .fault r => .fault r
    | .refused r => .refused r

/-- `run()` under fuel: `some t` where it returns in state `t` within `fuel` steps. Running out of fuel, a fault and a refusal are
no result (R76, R78, R79, log entry 10). -/
def hostRun (c : Config) : Nat → State → Option State
  | 0, _ => none
  | fuel + 1, s =>
    match stepWith c s with
    | .next t => if t.runState = .halted then some t else hostRun c fuel t
    | .fault _ => none
    | .refused _ => none

/-- `load_and_run(program)`: load, reset, run; a failed load ends it with nothing changed (R113). -/
def hostLoadAndRun (c : Config) (fuel : Nat) (program : List Byte) (s : State) : Except CoreError (Option State) :=
  match hostLoad program s with
  | .error e => .error e
  | .ok loaded => .ok (hostRun c fuel (hostReset loaded))

end Sys2Proof.Machine
end

