-- ==== Sys2Proof/Machine/Pseudocode.lean ====
section
/-! DEFINITION. The dispatch loop's body as spec/41_dispatch.md R71 writes it: an entry of the decode table, its handler, and the resolver reading the operand bytes in memory. `step` is the same function (Obligations.StepFollowsDispatchPseudocode); this form also runs an entry outside the CORE's table, which is how UnsupportedAddressingMode is reached (spec/60_exceptions.md R95). -/

namespace Sys2Proof.Machine

/-- A handler given an effective address (R80). DESIGN CHOICE: an operation that takes no operand ignores the address; no entry of the CORE's table is such (log entry 9). -/
def operandHandler (operation : Operation) (ea : EA) (s : State) : State :=
  match operation with
  | .lda => loadA s (Memory.read s.mem (EA.address ea))
  | .tax => loadX s s.a
  | .inx => loadX s (s.x + 1#8)
  | .nop => s
  | .halt => s

/-- A handler of a NoneAddressing entry (R74, R75, R89, R90). LDA's asks the resolver for the mode, which raises the fault (R69, R95). -/
def impliedHandler (entry : Entry) (pc0 : Word) (s : State) : State :=
  match entry.operation with
  | .lda =>
    match resolve .noneAddressing s.pc s.x s.y s.mem with
    | some ea => operandHandler .lda ea s
    | none => raiseUnsupportedAddressingMode entry.opcode pc0 s
  | .tax => loadX s s.a
  | .inx => loadX s (s.x + 1#8)
  | .nop => s
  | .halt => s

/-- R71 from its line `entry <- ...` on, in a state whose PC is still the opcode's address. -/
def runEntry (entry : Entry) (s : State) : State :=
  let pc0 := s.pc
  let fetched := State.advance s 1
  if entry.operation = .halt then
    State.withRunState fetched .halted
  else if entry.mode ≠ .noneAddressing then
    match resolve entry.mode fetched.pc fetched.x fetched.y fetched.mem with
    | some ea => State.advance (operandHandler entry.operation ea fetched) entry.mode.width
    | none => raiseUnsupportedAddressingMode entry.opcode pc0 fetched
  else
    impliedHandler entry pc0 fetched

/-- The whole of R71, in a state whose fault record is empty. -/
def dispatchPseudocode (s : State) : State := runEntry (entryOf (Memory.read s.mem s.pc)) s

end Sys2Proof.Machine
end

