-- ==== Sys2Proof/Safety.lean ====
section
/-! DEFINITION. What claims about the CORE are stated in: the flag relation, the invariant, and when a run returns. -/

namespace Sys2Proof.Safety

open Sys2Proof.Machine

/-- `after` is `before` with Z and N recomputed from `r` and every other bit kept, bit by bit (spec/10_state.md R23). -/
def FlagsFrom (r before after : Byte) : Prop :=
  after.getLsbD 1 = decide (r = 0x00#8) ∧ after.getLsbD 7 = r.getLsbD 7 ∧
    ∀ n, n ≠ 1 → n ≠ 7 → after.getLsbD n = before.getLsbD n

/-- Not both Z and N (R23: a result of 0 has bit 7 clear). -/
abbrev FlagsExclusive (p : Byte) : Prop := ¬ (p.getLsbD 1 = true ∧ p.getLsbD 7 = true)

/-- The invariant of a CORE that instructions alone have run: memory in canonical form, Z and N exclusive, no fault (R23, R98). -/
abbrev Inv (s : State) : Prop := s.mem.wf = true ∧ FlagsExclusive s.p ∧ s.fault = none

/-- Every byte of memory reads as before. -/
def KeepsMemory (s t : State) : Prop := ∀ addr : Word, t.mem.read addr = s.mem.read addr

/-- What an LDA that finds the byte `v` does: A and its flags, PC past `length` bytes, X, Y, the fault record and memory as before
(R72, R80). The run state is left to the statement. -/
def LoadsA (s t : State) (v : Byte) (length : Nat) : Prop :=
  t.a = v ∧ FlagsFrom v s.p t.p ∧ t.pc = s.pc + BitVec.ofNat 16 length ∧
    t.x = s.x ∧ t.y = s.y ∧ t.fault = s.fault ∧ KeepsMemory s t

/-- What TAX and INX do with a result `v`: X and its flags, PC past one byte, A, Y, the fault record and memory as before
(R72, R89, R90). The run state is left to the statement. -/
def LoadsX (s t : State) (v : Byte) : Prop :=
  t.x = v ∧ FlagsFrom v s.p t.p ∧ t.pc = s.pc + 1#16 ∧
    t.a = s.a ∧ t.y = s.y ∧ t.fault = s.fault ∧ KeepsMemory s t

/-- What HALT and NOP_UNMAPPED do besides the run state: PC past one byte, everything else as before (R72, R74, R75). -/
def OnlyPassesOneByte (s t : State) : Prop :=
  t.pc = s.pc + 1#16 ∧ t.a = s.a ∧ t.x = s.x ∧ t.y = s.y ∧ t.p = s.p ∧ t.fault = s.fault ∧ KeepsMemory s t

/-- The byte the next fetch reads as an opcode (R71). -/
def nextOpcode (s : State) : Byte := s.mem.read s.pc

/-- LDA in any of its eight modes (R80). -/
def IsLda (i : Instr) : Prop :=
  (∃ b, i = .ldaImm b) ∨ (∃ b, i = .ldaZp b) ∨ (∃ b, i = .ldaZpX b) ∨ (∃ w, i = .ldaAbs w) ∨
    (∃ w, i = .ldaAbsX w) ∨ (∃ w, i = .ldaAbsY w) ∨ (∃ b, i = .ldaIndX b) ∨ ∃ b, i = .ldaIndY b

/-- `k` times step(), not ending at a halt (spec/41_dispatch.md R77): what the end of a run_n(k) is compared with. -/
def stepsWith (c : Config) : Nat → State → Host.Outcome State Fault Refusal
  | 0, s => .next s
  | k + 1, s =>
    match stepWith c s with
    | .next t => stepsWith c k t
    | .fault r => .fault r
    | .refused r => .refused r

/-- `run()` returns from a state in another (R76, R78). -/
def RunReturns (c : Config) (s t : State) : Prop := ∃ fuel, hostRun c fuel s = some t

end Sys2Proof.Safety
end

