-- ==== Sys2Proof/Certificates/Slice0/Obligations.lean ====
section
/-! DEFINITION. The statements for the provers, from the numbered rules of spec/. -/

open Sys2Proof Sys2Proof.Machine Sys2Proof.Safety

/-! ### Encoding -/

/-- Decoding an encoded instruction gives it back, with every operand value, and leaves the bytes after it (30_encoding.md sections 1 to
4; the seven LDA bytes and the no-op's width are the spec's decisions D2 and D3, log entries 4 and 5). -/
def Obligations.DecodeOfEncodeIsIdentity : Prop :=
  ∀ (i : Instr) (rest : List Byte), i.wf = true → decode (encode i ++ rest) = .ok (i, rest)

/-- What decodes is well-formed, and is the encoding of what it decodes to, so no two encodings share an instruction (30_encoding.md
sections 1 to 4; decisions D2 and D3, log entries 4 and 5). -/
def Obligations.DecodedBytesAreTheEncoding : Prop :=
  ∀ (bytes : List Byte) (i : Instr) (rest : List Byte),
    decode bytes = .ok (i, rest) → i.wf = true ∧ bytes = encode i ++ rest

/-- With two operand bytes at hand, every one of the 256 opcode bytes decodes, to a well-formed instruction (R54; decisions D2 and D3,
log entries 4 and 5). -/
def Obligations.EveryOpcodeByteDecodes : Prop :=
  ∀ op b1 b2 : Byte, ∃ i rest, decode [op, b1, b2] = .ok (i, rest) ∧ i.wf = true

/-- The eleven mapped opcodes, each with any operand bytes (R47, R49; seven of the bytes are the spec's decision D2, log entry 4). -/
def Obligations.MappedOpcodesDecode : Prop :=
  ∀ (b lo hi : Byte) (rest : List Byte),
    decode (0x00#8 :: rest) = .ok (.halt, rest) ∧
    decode (0xA1#8 :: b :: rest) = .ok (.ldaIndX b, rest) ∧
    decode (0xA5#8 :: b :: rest) = .ok (.ldaZp b, rest) ∧
    decode (0xA9#8 :: b :: rest) = .ok (.ldaImm b, rest) ∧
    decode (0xAA#8 :: rest) = .ok (.tax, rest) ∧
    decode (0xAD#8 :: lo :: hi :: rest) = .ok (.ldaAbs (hi ++ lo), rest) ∧
    decode (0xB1#8 :: b :: rest) = .ok (.ldaIndY b, rest) ∧
    decode (0xB5#8 :: b :: rest) = .ok (.ldaZpX b, rest) ∧
    decode (0xB9#8 :: lo :: hi :: rest) = .ok (.ldaAbsY (hi ++ lo), rest) ∧
    decode (0xBD#8 :: lo :: hi :: rest) = .ok (.ldaAbsX (hi ++ lo), rest) ∧
    decode (0xE8#8 :: rest) = .ok (.inx, rest)

/-- Every opcode byte but the eleven mapped ones is a NOP_UNMAPPED of mode NoneAddressing, operand width 0 and length 1, and there are
245 (30_encoding.md section 4; the width is the spec's decision D3, log entry 5). -/
def Obligations.UnmappedOpcodesAreOneByteNops : Prop :=
  (∀ (op : Byte) (rest : List Byte),
    op ∉ [0x00#8, 0xA1#8, 0xA5#8, 0xA9#8, 0xAA#8, 0xAD#8, 0xB1#8, 0xB5#8, 0xB9#8, 0xBD#8, 0xE8#8] →
      decode (op :: rest) = .ok (.nopUnmapped op, rest) ∧ (entryOf op).mode = .noneAddressing ∧
        (entryOf op).mode.width = 0 ∧ instrLength op = 1) ∧
  ((List.range 256).filter (fun n => (entryOf (BitVec.ofNat 8 n)).operation = .nop)).length = 245

/-- Words written out from the encoding tables: 30_encoding.md section 6's examples and one unmapped byte, in the opcode table's bit
numbering (decisions D2 and D3, log entries 4 and 5). -/
def Obligations.ExampleWordsDecode : Prop :=
  decodeTableWord 16 0x05A9 = some (.ldaImm 0x05#8) ∧
  decodeTableWord 16 0x10B5 = some (.ldaZpX 0x10#8) ∧
  decodeTableWord 24 0x1234AD = some (.ldaAbs 0x1234#16) ∧
  decodeTableWord 8 0xAA = some .tax ∧
  decodeTableWord 8 0xE8 = some .inx ∧
  decodeTableWord 8 0x00 = some .halt ∧
  decodeTableWord 8 0xEA = some (.nopUnmapped 0xEA#8)

/-! ### The step -/

/-- A step of a CORE without a fault runs the instruction the bytes at PC decode to, from the same state with the run state Running; the
step itself adds nothing else, the instruction moves PC (R71; that step() sets Running is the spec's decision D17, log entry 1). -/
def Obligations.StepRunsDecodedInstruction : Prop :=
  ∀ (s : State) (i : Instr) (rest : List Byte),
    s.fault = none → decode (fetchBytes s.mem s.pc) = .ok (i, rest) →
      step s = exec i { s with runState := .running }

/-- Storing an instruction's bytes where PC points makes the step run it: the bytes the fetch reads are those the encoder writes (R47,
R71; log entries 1 and 2). -/
def Obligations.StepRunsEncodedInstruction : Prop :=
  ∀ (s : State) (i : Instr),
    s.fault = none → i.wf = true →
      step { s with mem := s.mem.writeBytes s.pc (encode i) } =
        exec i { s with mem := s.mem.writeBytes s.pc (encode i), runState := .running }

/-- The step is R71's pseudocode: opcode fetch, table entry, and the resolver reading the operand bytes in memory. That step() sets
Running and that a faulted CORE takes no step are the spec's decisions D17 and D7 (log entries 1, 2 and 6). -/
def Obligations.StepFollowsDispatchPseudocode : Prop :=
  ∀ s : State,
    (s.fault = none → step s = .next (dispatchPseudocode { s with runState := .running })) ∧
    ∀ r, s.fault = some r → step s = .fault (.unsupportedAddressingMode r)

/-- Fetch and decode cannot fail: a CORE without a fault always reaches a next state, again without a fault (R93; 60_exceptions.md
section 3, an inference of the spec). -/
def Obligations.UnfaultedStepAlwaysCompletes : Prop :=
  ∀ s : State, s.fault = none → ∃ t, step s = .next t ∧ t.fault = none

/-- Where each instruction leaves PC, modulo 65536, and the instruction across 0xFFFF (the table of 41_dispatch.md section 1, an inference
of the spec; it rests on its decisions D2, D3 and D4, log entries 4 and 5). -/
def Obligations.StepAdvancesPcByLength : Prop :=
  ∀ s : State, s.fault = none → ∃ t, step s = .next t ∧
    t.pc = s.pc +
      (if nextOpcode s ∈ [0xA9#8, 0xA5#8, 0xB5#8, 0xA1#8, 0xB1#8] then 2#16
       else if nextOpcode s ∈ [0xAD#8, 0xBD#8, 0xB9#8] then 3#16 else 1#16) ∧
    (s.pc = 0xFFFE#16 → nextOpcode s = 0xAD#8 →
      t.a = s.mem.read (s.mem.read 0x0000#16 ++ s.mem.read 0xFFFF#16) ∧ t.pc = 0x0001#16)

/-- No instruction writes memory, Y or bits 0 and 2 to 6 of P (R44; 10_state.md sections 2 and 4, where the storage bits are the spec's
decision D14), and none sets the fault record (the spec's inference in 60_exceptions.md section 1 that no entry of the table raises it). -/
def Obligations.StepFrame : Prop :=
  ∀ s t : State, step s = .next t →
    t.mem = s.mem ∧ t.y = s.y ∧ t.fault = s.fault ∧
      ∀ n, n ≠ 1 → n ≠ 7 → t.p.getLsbD n = s.p.getLsbD n

/-- LDA writes A, whatever A was, and no other instruction does; TAX reads A, and any other instruction does the same from a state
that differs in A alone, up to A itself (R16). -/
def Obligations.AccumulatorIsWrittenByLdaAndReadByTax : Prop :=
  ∀ (i : Instr) (s t : State), exec i s = .next t →
    (IsLda i → ∀ v : Byte, exec i { s with a := v } = .next t) ∧
    (¬ IsLda i → t.a = s.a) ∧
    (i = .tax → t.x = s.a) ∧
    (i ≠ .tax → ∀ v : Byte, ∃ v', exec i { s with a := v } = .next { t with a := v' })

/-- Only TAX and INX write X (R17), and no instruction writes Y (R18). -/
def Obligations.IndexRegistersAreWrittenByTaxAndInxOnly : Prop :=
  ∀ (i : Instr) (s t : State), exec i s = .next t →
    (i ≠ .tax → i ≠ .inx → t.x = s.x) ∧ t.y = s.y

/-- The flag update writes Z and N from its result and nothing else, and the instructions write P only so: LDA with A, TAX and INX
with X, the others not at all (R23). -/
def Obligations.FlagUpdateIsTheOnlyWriterOfP : Prop :=
  (∀ (s : State) (r : Byte),
    FlagsFrom r s.p (updateZeroAndNegative s r).p ∧
      updateZeroAndNegative s r = { s with p := (updateZeroAndNegative s r).p }) ∧
  ∀ (i : Instr) (s t : State), exec i s = .next t →
    (IsLda i → FlagsFrom t.a s.p t.p) ∧
    (i = .tax ∨ i = .inx → FlagsFrom t.x s.p t.p) ∧
    (¬ IsLda i → i ≠ .tax → i ≠ .inx → t.p = s.p)

/-- P has no effect on execution: two states that differ in P alone step to states that differ in P alone (10_state.md section 4, an
inference of the spec and its decision D14). -/
def Obligations.StatusByteNeverInfluencesExecution : Prop :=
  ∀ (s t : State) (q : Byte), step s = .next t →
    ∃ q', step { s with p := q } = .next { t with p := q' }

/-- After a step the run state says whether the opcode was the halt opcode (41_dispatch.md sections 1, 2 and 4; that step() starts from
Running is the spec's decision D5, log entry 1). -/
def Obligations.StepHaltsExactlyOnHaltOpcode : Prop :=
  ∀ s t : State, step s = .next t →
    t.runState = if nextOpcode s = 0x00#8 then .halted else .running

/-! ### The invariant -/

/-- The state after reset has canonical memory (the model's form, log entry 11), not both Z and N, and no fault (70_reset_and_hazards.md
section 1). -/
def Obligations.InvariantHoldsAtReset : Prop := Inv State.reset

/-- Every step keeps memory canonical (the model's form, log entry 11), Z and N exclusive (an inference of 10_state.md section 4) and the
fault record empty (60_exceptions.md section 1), from any state where they are so. -/
def Obligations.StepKeepsInvariant : Prop :=
  ∀ s t : State, Inv s → step s = .next t → Inv t

/-- The interface operations that write the state keep the invariant too (log entry 11); a register write by the host is not among them,
since P is free to it (10_state.md section 6). -/
def Obligations.HostOperationsKeepInvariant : Prop :=
  ∀ s : State, Inv s →
    (∀ addr v, Inv (hostWrite s addr v)) ∧ Inv (hostReset s) ∧ (∀ p t, hostLoad p s = .ok t → Inv t) ∧
      ∀ c fuel t, hostRun c fuel s = some t → Inv t

/-! ### LDA -/

/-- Every LDA form completes from every state: the byte at the effective address of its mode goes to A and its flags, PC moves past the
operand bytes too, nothing else changes and nothing is raised (R80). -/
def Obligations.LdaFormsComplete : Prop :=
  ∀ (s : State) (b : Byte) (w : Word),
    (∃ t, exec (.ldaImm b) s = .next t ∧ LoadsA s t b 2 ∧ t.runState = s.runState) ∧
    (∃ t, exec (.ldaZp b) s = .next t ∧ LoadsA s t (s.mem.read (b.setWidth 16)) 2 ∧ t.runState = s.runState) ∧
    (∃ t, exec (.ldaZpX b) s = .next t ∧ LoadsA s t (s.mem.read ((b + s.x).setWidth 16)) 2 ∧ t.runState = s.runState) ∧
    (∃ t, exec (.ldaAbs w) s = .next t ∧ LoadsA s t (s.mem.read w) 3 ∧ t.runState = s.runState) ∧
    (∃ t, exec (.ldaAbsX w) s = .next t ∧ LoadsA s t (s.mem.read (w + s.x.setWidth 16)) 3 ∧ t.runState = s.runState) ∧
    (∃ t, exec (.ldaAbsY w) s = .next t ∧ LoadsA s t (s.mem.read (w + s.y.setWidth 16)) 3 ∧ t.runState = s.runState) ∧
    (∃ t, exec (.ldaIndX b) s = .next t ∧
      LoadsA s t (s.mem.read (s.mem.read ((b + s.x + 1#8).setWidth 16) ++ s.mem.read ((b + s.x).setWidth 16))) 2 ∧
        t.runState = s.runState) ∧
    (∃ t, exec (.ldaIndY b) s = .next t ∧
      LoadsA s t (s.mem.read
        ((s.mem.read ((b + 1#8).setWidth 16) ++ s.mem.read (b.setWidth 16)) + s.y.setWidth 16)) 2 ∧
        t.runState = s.runState)

/-- What an LDA leaves unchanged (R80, R92): X, Y, the run state, the fault record, P but for Z and N, and every byte of memory. -/
def Obligations.LdaFrame : Prop :=
  ∀ (i : Instr) (s t : State), IsLda i → exec i s = .next t →
    t.x = s.x ∧ t.y = s.y ∧ t.runState = s.runState ∧ t.fault = s.fault ∧
      (∀ n, n ≠ 1 → n ≠ 7 → t.p.getLsbD n = s.p.getLsbD n) ∧ ∀ addr : Word, t.mem.read addr = s.mem.read addr

/-- LDA #imm, opcode 0xA9, as a step (R81). -/
def Obligations.LdaImmediateStep : Prop :=
  ∀ s : State, s.fault = none → s.mem.read s.pc = 0xA9#8 →
    ∃ t, step s = .next t ∧ LoadsA s t (s.mem.read (s.pc + 1#16)) 2

/-- LDA zp, opcode 0xA5, as a step (R61, R80; the opcode byte is the spec's decision D2, log entry 4). -/
def Obligations.LdaZeroPageStep : Prop :=
  ∀ s : State, s.fault = none → s.mem.read s.pc = 0xA5#8 →
    ∃ t, step s = .next t ∧
      LoadsA s t (s.mem.read ((s.mem.read (s.pc + 1#16)).setWidth 16)) 2

/-- LDA zp,X, opcode 0xB5, as a step (R62, R80; the opcode byte is the spec's decision D2, log entry 4). -/
def Obligations.LdaZeroPageXStep : Prop :=
  ∀ s : State, s.fault = none → s.mem.read s.pc = 0xB5#8 →
    ∃ t, step s = .next t ∧
      LoadsA s t (s.mem.read ((s.mem.read (s.pc + 1#16) + s.x).setWidth 16)) 2

/-- LDA abs, opcode 0xAD, as a step (R64, R80; the opcode byte is the spec's decision D2, log entry 4). -/
def Obligations.LdaAbsoluteStep : Prop :=
  ∀ s : State, s.fault = none → s.mem.read s.pc = 0xAD#8 →
    ∃ t, step s = .next t ∧
      LoadsA s t (s.mem.read (s.mem.read (s.pc + 2#16) ++ s.mem.read (s.pc + 1#16))) 3

/-- LDA abs,X, opcode 0xBD, as a step (R65, R80; the opcode byte is the spec's decision D2, log entry 4). -/
def Obligations.LdaAbsoluteXStep : Prop :=
  ∀ s : State, s.fault = none → s.mem.read s.pc = 0xBD#8 →
    ∃ t, step s = .next t ∧
      LoadsA s t (s.mem.read ((s.mem.read (s.pc + 2#16) ++ s.mem.read (s.pc + 1#16)) + s.x.setWidth 16)) 3

/-- LDA abs,Y, opcode 0xB9, as a step (R66, R80; the opcode byte is the spec's decision D2, log entry 4). -/
def Obligations.LdaAbsoluteYStep : Prop :=
  ∀ s : State, s.fault = none → s.mem.read s.pc = 0xB9#8 →
    ∃ t, step s = .next t ∧
      LoadsA s t (s.mem.read ((s.mem.read (s.pc + 2#16) ++ s.mem.read (s.pc + 1#16)) + s.y.setWidth 16)) 3

/-- LDA (zp,X), opcode 0xA1, as a step: the pointer and its high byte both wrap in page 0 (R67, R80; the opcode byte is the spec's decision D2, log entry 4). -/
def Obligations.LdaIndirectXStep : Prop :=
  ∀ s : State, s.fault = none → s.mem.read s.pc = 0xA1#8 →
    ∃ t, step s = .next t ∧
      LoadsA s t (s.mem.read
        (s.mem.read ((s.mem.read (s.pc + 1#16) + s.x + 1#8).setWidth 16) ++
          s.mem.read ((s.mem.read (s.pc + 1#16) + s.x).setWidth 16))) 2

/-- LDA (zp),Y, opcode 0xB1, as a step: Y is added to the address the unindexed pointer holds (R68, R80; the opcode byte is the spec's decision D2, log entry 4). -/
def Obligations.LdaIndirectYStep : Prop :=
  ∀ s : State, s.fault = none → s.mem.read s.pc = 0xB1#8 →
    ∃ t, step s = .next t ∧
      LoadsA s t (s.mem.read
        ((s.mem.read ((s.mem.read (s.pc + 1#16) + 1#8).setWidth 16) ++
          s.mem.read ((s.mem.read (s.pc + 1#16)).setWidth 16)) + s.y.setWidth 16)) 2

/-! ### TAX and INX -/

/-- TAX and INX complete from every state (R89, R90). -/
def Obligations.TaxAndInxComplete : Prop :=
  ∀ s : State,
    (∃ t, exec .tax s = .next t ∧ LoadsX s t s.a ∧ t.runState = s.runState) ∧
    (∃ t, exec .inx s = .next t ∧ LoadsX s t (s.x + 1#8) ∧ t.runState = s.runState)

/-- What TAX and INX leave unchanged (R89, R90): A, Y, the run state, the fault record, P but for Z and N, and every byte of memory. -/
def Obligations.TaxAndInxFrame : Prop :=
  ∀ (i : Instr) (s t : State), i = .tax ∨ i = .inx → exec i s = .next t →
    t.a = s.a ∧ t.y = s.y ∧ t.runState = s.runState ∧ t.fault = s.fault ∧
      (∀ n, n ≠ 1 → n ≠ 7 → t.p.getLsbD n = s.p.getLsbD n) ∧ ∀ addr : Word, t.mem.read addr = s.mem.read addr

/-- TAX, opcode 0xAA, as a step (R89). -/
def Obligations.TaxStep : Prop :=
  ∀ s : State, s.fault = none → s.mem.read s.pc = 0xAA#8 →
    ∃ t, step s = .next t ∧ LoadsX s t s.a

/-- INX, opcode 0xE8, as a step: modulo 256, with 0xFF going to 0x00 and Z (R90). -/
def Obligations.InxStep : Prop :=
  ∀ s : State, s.fault = none → s.mem.read s.pc = 0xE8#8 →
    ∃ t, step s = .next t ∧ LoadsX s t (s.x + 1#8) ∧ t.x.toNat = (s.x.toNat + 1) % 256

/-! ### HALT and NOP_UNMAPPED -/

/-- HALT and NOP_UNMAPPED complete from every state (41_dispatch.md sections 2 and 3; that HALT does nothing else and that a no-op is one
byte are the spec's decisions D16 and D3, log entry 5). -/
def Obligations.HaltAndNopComplete : Prop :=
  ∀ s : State,
    (∃ t, exec .halt s = .next t ∧ OnlyPassesOneByte s t ∧ t.runState = .halted) ∧
    ∀ op : Byte, ∃ t, exec (.nopUnmapped op) s = .next t ∧ OnlyPassesOneByte s t ∧ t.runState = s.runState

/-- What HALT and NOP_UNMAPPED leave unchanged: every register but PC, all of P, the fault record, every byte of memory (41_dispatch.md
sections 2 and 3; decisions D16 and D3, log entry 5). -/
def Obligations.HaltAndNopFrame : Prop :=
  ∀ (i : Instr) (s t : State), (i = .halt ∨ ∃ op, i = .nopUnmapped op) → exec i s = .next t →
    t.a = s.a ∧ t.x = s.x ∧ t.y = s.y ∧ t.p = s.p ∧ t.fault = s.fault ∧
      (i ≠ .halt → t.runState = s.runState) ∧ ∀ addr : Word, t.mem.read addr = s.mem.read addr

/-- HALT, opcode 0x00, as a step: the run state and PC, no push, no flag, no vector (41_dispatch.md section 2; the spec's decision D16,
log entry 5). -/
def Obligations.HaltStep : Prop :=
  ∀ s : State, s.fault = none → s.mem.read s.pc = 0x00#8 →
    ∃ t, step s = .next t ∧ t.runState = .halted ∧ OnlyPassesOneByte s t

/-- An unmapped opcode byte as a step: one byte passed and no register, flag or memory byte written (41_dispatch.md section 3; the spec's
decision D3, log entry 5); the run state is Running because step() sets it first (41_dispatch.md section 4; the spec's decisions D5 and
D17, log entry 1). -/
def Obligations.UnmappedOpcodeStep : Prop :=
  ∀ s : State, s.fault = none →
    s.mem.read s.pc ∉ [0x00#8, 0xA1#8, 0xA5#8, 0xA9#8, 0xAA#8, 0xAD#8, 0xB1#8, 0xB5#8, 0xB9#8, 0xBD#8, 0xE8#8] →
      ∃ t, step s = .next t ∧ t.runState = .running ∧ OnlyPassesOneByte s t

/-! ### The resolver and memory -/

/-- ZeroPage and ZeroPage,X, with `pc` the address of the operand byte: the address never leaves page 0 (R61, R62). -/
def Obligations.ResolverZeroPageModes : Prop :=
  ∀ (pc : Word) (x y : Byte) (m : Memory),
    resolve .zeroPage pc x y m = some (.addr ((m.read pc).setWidth 16)) ∧
    resolve .zeroPageX pc x y m = some (.addr ((m.read pc + x).setWidth 16)) ∧
    Mode.zeroPage.width = 1 ∧ Mode.zeroPageX.width = 1 ∧
    ∀ (mode : Mode) (ea : EA), mode = .zeroPage ∨ mode = .zeroPageX →
      resolve mode pc x y m = some ea → ea.address.toNat < 0x100

/-- Absolute,X, Absolute,Y, Indirect,X and Indirect,Y: 16-bit sums, and pointers whose high byte is fetched within page 0, so that a
pointer at 0xFF ends at 0x0000 (R65 to R68). -/
def Obligations.ResolverIndexedAndIndirectModes : Prop :=
  ∀ (pc : Word) (x y : Byte) (m : Memory),
    resolve .absoluteX pc x y m = some (.addr ((m.read (pc + 1#16) ++ m.read pc) + x.setWidth 16)) ∧
    resolve .absoluteY pc x y m = some (.addr ((m.read (pc + 1#16) ++ m.read pc) + y.setWidth 16)) ∧
    resolve .indirectX pc x y m = some (.addr
      (m.read ((m.read pc + x + 1#8).setWidth 16) ++ m.read ((m.read pc + x).setWidth 16))) ∧
    resolve .indirectY pc x y m = some (.addr
      ((m.read ((m.read pc + 1#8).setWidth 16) ++ m.read ((m.read pc).setWidth 16)) + y.setWidth 16)) ∧
    (m.read pc + x = 0xFF#8 → resolve .indirectX pc x y m = some (.addr (m.read 0x0000#16 ++ m.read 0x00FF#16))) ∧
    (m.read pc = 0xFF#8 →
      resolve .indirectY pc x y m = some (.addr ((m.read 0x0000#16 ++ m.read 0x00FF#16) + y.setWidth 16))) ∧
    Mode.absoluteX.width = 2 ∧ Mode.absoluteY.width = 2 ∧ Mode.indirectX.width = 1 ∧ Mode.indirectY.width = 1

/-- The other four tags: Immediate answers PC itself, ZeroPage,Y adds Y (no opcode uses it, 40_addressing_modes.md R63's derived
sentence), Absolute is the operand, and NoneAddressing has no address (R60, R63, R64, R69). -/
def Obligations.ResolverRemainingModes : Prop :=
  ∀ (pc : Word) (x y : Byte) (m : Memory),
    resolve .immediate pc x y m = some (.imm pc) ∧
    resolve .zeroPageY pc x y m = some (.addr ((m.read pc + y).setWidth 16)) ∧
    resolve .absolute pc x y m = some (.addr (m.read (pc + 1#16) ++ m.read pc)) ∧
    resolve .noneAddressing pc x y m = none ∧
    [Mode.immediate, .zeroPageY, .absolute, .noneAddressing].map Mode.width = [1, 1, 2, 0]

/-- A byte write changes its byte and nothing else, no register among it; and no instruction stores to memory (R32). -/
def Obligations.ByteWriteChangesOneByte : Prop :=
  (∀ (s : State) (addr other : Word) (v : Byte),
    (hostWrite s addr v).mem.read other = (if other = addr then v else s.mem.read other) ∧
      hostWrite s addr v = { s with mem := (hostWrite s addr v).mem }) ∧
  ∀ s t : State, step s = .next t → ∀ addr : Word, t.mem.read addr = s.mem.read addr

/-- A two-byte read is the byte at `addr` below the byte at `addr +16 1` (R33). -/
def Obligations.TwoByteReadIsLittleEndian : Prop :=
  ∀ (m : Memory) (addr : Word),
    m.read16 addr = m.read (addr + 1#16) ++ m.read addr ∧
    (m.read16 addr).toNat = (m.read (addr + 1#16)).toNat * 256 + (m.read addr).toNat

/-- A two-byte write changes its two bytes and reads back, and at 0xFFFF its high byte is at 0x0000 (R34; the wrap is the spec's own
decision D4). -/
def Obligations.TwoByteWriteReadsBack : Prop :=
  ∀ (m : Memory) (addr v : Word),
    (∀ other : Word, (m.write16 addr v).read other =
      if other = addr + 1#16 then v.extractLsb 15 8 else if other = addr then v.extractLsb 7 0 else m.read other) ∧
    (m.write16 addr v).read16 addr = v ∧
    (m.write16 0xFFFF#16 v).read 0x0000#16 = v.extractLsb 15 8 ∧
    m.read16 0xFFFF#16 = m.read 0x0000#16 ++ m.read 0xFFFF#16

/-! ### The fault -/

/-- The effect of UnsupportedAddressingMode where a decode-table entry asks for NoneAddressing, and that no step of the CORE raises it
(60_exceptions.md section 1; the record and the stop are the spec's decision D7, log entries 6 and 9). -/
def Obligations.NoneAddressingRaisesStickyFault : Prop :=
  (∀ (op : Byte) (s : State),
    (runEntry ⟨op, .lda, .noneAddressing⟩ s).fault = some ⟨op, s.pc⟩ ∧
    (runEntry ⟨op, .lda, .noneAddressing⟩ s).pc = s.pc + 1#16 ∧
    (runEntry ⟨op, .lda, .noneAddressing⟩ s).a = s.a ∧ (runEntry ⟨op, .lda, .noneAddressing⟩ s).x = s.x ∧
    (runEntry ⟨op, .lda, .noneAddressing⟩ s).y = s.y ∧ (runEntry ⟨op, .lda, .noneAddressing⟩ s).p = s.p ∧
    (runEntry ⟨op, .lda, .noneAddressing⟩ s).mem = s.mem ∧
    (runEntry ⟨op, .lda, .noneAddressing⟩ s).runState = s.runState ∧
    step (runEntry ⟨op, .lda, .noneAddressing⟩ s) = .fault (.unsupportedAddressingMode ⟨op, s.pc⟩) ∧
    ∀ c fuel, hostRun c fuel (runEntry ⟨op, .lda, .noneAddressing⟩ s) = none) ∧
  ∀ s t : State, step s = .next t → t.fault = none

/-- The fault record is empty after new(), is set by NoneAddressing, stops every step and run, and nothing clears it (10_state.md section
5; the spec's decision D7, log entries 6 and 7). -/
def Obligations.FaultRecordIsSticky : Prop :=
  hostNew.fault = none ∧
  (∀ (op : Byte) (s : State), (runEntry ⟨op, .lda, .noneAddressing⟩ s).fault = some ⟨op, s.pc⟩) ∧
  ∀ (s : State) (r : FaultRecord), s.fault = some r →
    step s = .fault (.unsupportedAddressingMode r) ∧ (hostReset s).fault = some r ∧
      (∀ p t, hostLoad p s = .ok t → t.fault = some r) ∧ ∀ c fuel, hostRun c fuel s = none

/-! ### new, load, reset, run -/

/-- The state new() leaves (70_reset_and_hazards.md section 1; its run state and fault record are the spec's decisions D5 and D7, log
entry 5). -/
def Obligations.NewCoreIsZeroed : Prop :=
  hostNew = State.reset ∧ hostNew.a = 0x00#8 ∧ hostNew.x = 0x00#8 ∧ hostNew.y = 0x00#8 ∧ hostNew.p = 0x00#8 ∧
    hostNew.pc = 0x0000#16 ∧ hostNew.fault = none ∧ hostNew.runState = .halted ∧
      ∀ addr : Word, hostNew.mem.read addr = 0x00#8

/-- What reset() does, PC coming from the vector in memory (70_reset_and_hazards.md section 1; that the fault record and the run state
stay is the spec's decision D18, log entry 5). -/
def Obligations.ResetClearsRegistersAndLoadsVector : Prop :=
  (∀ s : State, (hostReset s).a = 0x00#8 ∧ (hostReset s).x = 0x00#8 ∧ (hostReset s).y = 0x00#8 ∧
    (hostReset s).p = 0x00#8 ∧ (hostReset s).pc = s.mem.read 0xFFFD#16 ++ s.mem.read 0xFFFC#16 ∧
    (hostReset s).mem = s.mem ∧ (hostReset s).fault = s.fault ∧ (hostReset s).runState = s.runState) ∧
  (hostReset hostNew).pc = 0x0000#16

/-- Two resets in a row are one (70_reset_and_hazards.md section 1, an inference of the spec beside the document's sentence). -/
def Obligations.ResetIsIdempotent : Prop := ∀ s : State, hostReset (hostReset s) = hostReset s

/-- Too long a program is rejected with its length, code 2 (the spec's decision D8, log entry 5), and no state, so nothing is written and
the CORE stays in the state it was in; 0x8000 bytes are accepted (60_exceptions.md section 1). -/
def Obligations.TooLargeProgramIsRejected : Prop :=
  ∀ (program : List Byte) (s : State),
    (0x8000 < program.length → hostLoad program s = .error (.programTooLarge program.length)) ∧
    (program.length = 0x8000 → ∃ t, hostLoad program s = .ok t) ∧
    (CoreError.programTooLarge program.length).code = 2

/-- What load() places and what it keeps, the vector bytes winning over the program's (70_reset_and_hazards.md section 1; decisions D9,
D10 and D11, log entry 5). -/
def Obligations.LoadPlacesProgramAndVector : Prop :=
  ∀ (program : List Byte) (s : State),
    (0x8000 < program.length → hostLoad program s = .error (.programTooLarge program.length)) ∧
    (program.length ≤ 0x8000 → ∃ t, hostLoad program s = .ok t ∧ t.pc = 0x8000#16 ∧
      t.a = s.a ∧ t.x = s.x ∧ t.y = s.y ∧ t.p = s.p ∧ t.runState = s.runState ∧ t.fault = s.fault ∧
      ∀ addr : Word, t.mem.read addr =
        if addr = 0xFFFC#16 then 0x00#8
        else if addr = 0xFFFD#16 then 0x80#8
        else if 0x8000 ≤ addr.toNat ∧ addr.toNat < 0x8000 + program.length then
          program.getD (addr.toNat - 0x8000) 0x00#8
        else s.mem.read addr)

/-- load_and_run() is load, reset, run from 0x8000, and ends with the load's error where that fails (70_reset_and_hazards.md section 1;
the spec's decision D21, log entry 5). -/
def Obligations.LoadAndRunStartsAtTheProgram : Prop :=
  ∀ (c : Config) (fuel : Nat) (program : List Byte) (s : State),
    (0x8000 < program.length →
      hostLoadAndRun c fuel program s = .error (.programTooLarge program.length)) ∧
    (program.length ≤ 0x8000 → ∃ loaded, hostLoad program s = .ok loaded ∧ (hostReset loaded).pc = 0x8000#16 ∧
      hostLoadAndRun c fuel program s = .ok (hostRun c fuel (hostReset loaded)))

/-- run_n(k) is a prefix of run(): no step for k = 0; where run() returns within k steps, run_n(k) ends in the same state; otherwise it
ends, still Running, in the state after exactly k steps, from which run() goes on as it does from the start, k steps on; and where it
meets the fault or a refusal, run() never returns (41_dispatch.md section 4; the spec's decision D17, log entry 10). -/
def Obligations.RunNIsAPrefixOfRun : Prop :=
  ∀ (c : Config) (k : Nat) (s : State),
    hostRunN c 0 s = .next s ∧
    (∀ t, hostRun c k s = some t → hostRunN c k s = .next t) ∧
    (∀ t, 0 < k → hostRunN c k s = .next t →
      (t.runState = .halted ∧ hostRun c k s = some t ∧ ∃ j, 0 < j ∧ j ≤ k ∧ stepsWith c j s = .next t) ∨
      (t.runState = .running ∧ stepsWith c k s = .next t ∧ ∀ m, hostRun c (k + m) s = hostRun c m t)) ∧
    (∀ r, hostRunN c k s = .fault r → ∀ m, hostRun c m s = none) ∧
    (∀ r, hostRunN c k s = .refused r → ∀ m, hostRun c m s = none)

/-- A run ends with the FIRST step that executes opcode 0x00: no earlier state of the run has that byte at PC; it ends Halted, PC one past
the byte; and more fuel does not change the end (41_dispatch.md section 4; the spec's decisions D5 and D20, log entry 10). -/
def Obligations.RunEndsWithHaltStep : Prop :=
  ∀ (fuel : Nat) (s t : State), hostRun Config.standard fuel s = some t →
    t.runState = .halted ∧ hostRun Config.standard (fuel + 1) s = some t ∧
    ∃ k u, k < fuel ∧ Host.Core.run core k s = .next u ∧ nextOpcode u = 0x00#8 ∧ step u = .next t ∧ t.pc = u.pc + 1#16 ∧
      ∀ j v, j < k → Host.Core.run core j s = .next v → nextOpcode v ≠ 0x00#8

/-- run() returns exactly when some step fetches 0x00 as an opcode (41_dispatch.md section 4, an inference of the spec; log entry 10). -/
def Obligations.RunReturnsIffHaltIsFetched : Prop :=
  ∀ s : State, s.fault = none →
    ((∃ t, RunReturns Config.standard s t) ↔
      ∃ k u, Host.Core.run core k s = .next u ∧ nextOpcode u = 0x00#8)

/-- A memory without a zero byte never lets run() return (41_dispatch.md section 4, an inference of the spec; log entry 10). -/
def Obligations.RunWithoutZeroByteDiverges : Prop :=
  ∀ (c : Config) (s : State), (∀ addr : Word, s.mem.read addr ≠ 0x00#8) → ∀ fuel, hostRun c fuel s = none

/-- run() right after new() halts at once with PC = 0x0001 (70_reset_and_hazards.md section 3, an inference of the spec). -/
def Obligations.RunOfNewCoreHaltsAtOnce : Prop :=
  ∃ t, hostRun Config.standard 1 hostNew = some t ∧ t.pc = 0x0001#16 ∧ t.runState = .halted ∧
    t.a = 0x00#8 ∧ t.x = 0x00#8 ∧ t.y = 0x00#8 ∧ t.p = 0x00#8

/-! ### The OPEN parameter -/

/-- With `LDA_EXTENDED_MODES` refused, a step that fetches one of the seven opcodes is refused by name, and any other step is as before
(the spec's decision D2, log entries 3 and 4). -/
def Obligations.RefusedModesRefuseOnlySevenOpcodes : Prop :=
  ∀ s : State, s.fault = none →
    (nextOpcode s ∈ [0xA5#8, 0xB5#8, 0xAD#8, 0xBD#8, 0xB9#8, 0xA1#8, 0xB1#8] →
      stepWith { ldaExtendedModes := .refused } s = .refused (.extendedModeRefused (nextOpcode s))) ∧
    (nextOpcode s ∉ [0xA5#8, 0xB5#8, 0xAD#8, 0xBD#8, 0xB9#8, 0xA1#8, 0xB1#8] →
      stepWith { ldaExtendedModes := .refused } s = step s)
end

