-- ==== Sys2Proof/Laws/Decode.lean ====
section
/-! SUPPORT. The rows of the opcode table, and the one case split over opcode bytes that later proofs use (spec/30_encoding.md R50, R53). -/

namespace Sys2Proof

/-- An unmapped byte's entry (R53). -/
theorem entryOf_unmapped (op : Byte) (h : mappedOpcodes.contains op = false) :
    entryOf op = ⟨op, .nop, .noneAddressing⟩ := by
  revert op
  decide

/-- The table in one case split: an opcode byte is one of the eleven mapped ones, or its entry is the no-op (R50, R53). -/
theorem entryOf_cases (op : Byte) :
    (op = 0x00#8 ∧ entryOf op = ⟨0x00#8, .halt, .noneAddressing⟩) ∨
    (op = 0xA1#8 ∧ entryOf op = ⟨0xA1#8, .lda, .indirectX⟩) ∨
    (op = 0xA5#8 ∧ entryOf op = ⟨0xA5#8, .lda, .zeroPage⟩) ∨
    (op = 0xA9#8 ∧ entryOf op = ⟨0xA9#8, .lda, .immediate⟩) ∨
    (op = 0xAA#8 ∧ entryOf op = ⟨0xAA#8, .tax, .noneAddressing⟩) ∨
    (op = 0xAD#8 ∧ entryOf op = ⟨0xAD#8, .lda, .absolute⟩) ∨
    (op = 0xB1#8 ∧ entryOf op = ⟨0xB1#8, .lda, .indirectY⟩) ∨
    (op = 0xB5#8 ∧ entryOf op = ⟨0xB5#8, .lda, .zeroPageX⟩) ∨
    (op = 0xB9#8 ∧ entryOf op = ⟨0xB9#8, .lda, .absoluteY⟩) ∨
    (op = 0xBD#8 ∧ entryOf op = ⟨0xBD#8, .lda, .absoluteX⟩) ∨
    (op = 0xE8#8 ∧ entryOf op = ⟨0xE8#8, .inx, .noneAddressing⟩) ∨
    (mappedOpcodes.contains op = false ∧ entryOf op = ⟨op, .nop, .noneAddressing⟩) := by
  revert op
  decide

theorem joinBytes_high_low (w : Word) : joinBytes (highByte w) (lowByte w) = w := by
  apply BitVec.eq_of_getLsbD_eq
  intro n hn
  simp only [joinBytes, highByte, lowByte, BitVec.getLsbD_append, BitVec.getLsbD_extractLsb']
  by_cases h : n < 8
  · simp [h]
  · simp [h, show n - 8 < 8 by omega, show 8 + (n - 8) = n by omega]

theorem lowByte_joinBytes (hi lo : Byte) : lowByte (joinBytes hi lo) = lo := by
  apply BitVec.eq_of_getLsbD_eq
  intro n hn
  simp only [joinBytes, lowByte, BitVec.getLsbD_append, BitVec.getLsbD_extractLsb']
  simp [hn]

theorem highByte_joinBytes (hi lo : Byte) : highByte (joinBytes hi lo) = hi := by
  apply BitVec.eq_of_getLsbD_eq
  intro n hn
  simp only [joinBytes, highByte, BitVec.getLsbD_append, BitVec.getLsbD_extractLsb']
  simp [hn]

end Sys2Proof
end

