-- ==== Sys2Proof/Laws/Flags.lean ====
section
/-! SUPPORT. The bits of a byte with one bit replaced (for spec/10_state.md R23). -/

namespace Sys2Proof.Machine

/-- `setBit` writes its bit and keeps the others. -/
theorem setBit_getLsbD (v : Byte) (n : Nat) (b : Bool) (k : Nat) (hn : n < 8) :
    (setBit v n b).getLsbD k = if k = n then b else v.getLsbD k := by
  by_cases hk : k < 8
  · interval_cases n <;> interval_cases k <;> cases b <;> simp [setBit]
  · have hv : v.getLsbD k = false := BitVec.getLsbD_of_ge v k (by omega)
    have hs : (setBit v n b).getLsbD k = false := BitVec.getLsbD_of_ge _ k (by omega)
    rw [hv, hs, if_neg (by omega)]

end Sys2Proof.Machine
end

