-- ==== Sys2Proof/Laws/State.lean ====
section
/-! SUPPORT. One lemma per field of State per update of State, so that no proof unfolds a record update. -/

namespace Sys2Proof.Machine

@[simp] theorem State.withA_a (s : State) (v : Byte) : (State.withA s v).a = v := rfl
@[simp] theorem State.withA_x (s : State) (v : Byte) : (State.withA s v).x = s.x := rfl
@[simp] theorem State.withA_y (s : State) (v : Byte) : (State.withA s v).y = s.y := rfl
@[simp] theorem State.withA_p (s : State) (v : Byte) : (State.withA s v).p = s.p := rfl
@[simp] theorem State.withA_pc (s : State) (v : Byte) : (State.withA s v).pc = s.pc := rfl
@[simp] theorem State.withA_mem (s : State) (v : Byte) : (State.withA s v).mem = s.mem := rfl
@[simp] theorem State.withA_runState (s : State) (v : Byte) : (State.withA s v).runState = s.runState := rfl
@[simp] theorem State.withA_fault (s : State) (v : Byte) : (State.withA s v).fault = s.fault := rfl

@[simp] theorem State.withX_a (s : State) (v : Byte) : (State.withX s v).a = s.a := rfl
@[simp] theorem State.withX_x (s : State) (v : Byte) : (State.withX s v).x = v := rfl
@[simp] theorem State.withX_y (s : State) (v : Byte) : (State.withX s v).y = s.y := rfl
@[simp] theorem State.withX_p (s : State) (v : Byte) : (State.withX s v).p = s.p := rfl
@[simp] theorem State.withX_pc (s : State) (v : Byte) : (State.withX s v).pc = s.pc := rfl
@[simp] theorem State.withX_mem (s : State) (v : Byte) : (State.withX s v).mem = s.mem := rfl
@[simp] theorem State.withX_runState (s : State) (v : Byte) : (State.withX s v).runState = s.runState := rfl
@[simp] theorem State.withX_fault (s : State) (v : Byte) : (State.withX s v).fault = s.fault := rfl

@[simp] theorem State.withY_a (s : State) (v : Byte) : (State.withY s v).a = s.a := rfl
@[simp] theorem State.withY_x (s : State) (v : Byte) : (State.withY s v).x = s.x := rfl
@[simp] theorem State.withY_y (s : State) (v : Byte) : (State.withY s v).y = v := rfl
@[simp] theorem State.withY_p (s : State) (v : Byte) : (State.withY s v).p = s.p := rfl
@[simp] theorem State.withY_pc (s : State) (v : Byte) : (State.withY s v).pc = s.pc := rfl
@[simp] theorem State.withY_mem (s : State) (v : Byte) : (State.withY s v).mem = s.mem := rfl
@[simp] theorem State.withY_runState (s : State) (v : Byte) : (State.withY s v).runState = s.runState := rfl
@[simp] theorem State.withY_fault (s : State) (v : Byte) : (State.withY s v).fault = s.fault := rfl

@[simp] theorem State.withP_a (s : State) (v : Byte) : (State.withP s v).a = s.a := rfl
@[simp] theorem State.withP_x (s : State) (v : Byte) : (State.withP s v).x = s.x := rfl
@[simp] theorem State.withP_y (s : State) (v : Byte) : (State.withP s v).y = s.y := rfl
@[simp] theorem State.withP_p (s : State) (v : Byte) : (State.withP s v).p = v := rfl
@[simp] theorem State.withP_pc (s : State) (v : Byte) : (State.withP s v).pc = s.pc := rfl
@[simp] theorem State.withP_mem (s : State) (v : Byte) : (State.withP s v).mem = s.mem := rfl
@[simp] theorem State.withP_runState (s : State) (v : Byte) : (State.withP s v).runState = s.runState := rfl
@[simp] theorem State.withP_fault (s : State) (v : Byte) : (State.withP s v).fault = s.fault := rfl

@[simp] theorem State.withPc_a (s : State) (v : Word) : (State.withPc s v).a = s.a := rfl
@[simp] theorem State.withPc_x (s : State) (v : Word) : (State.withPc s v).x = s.x := rfl
@[simp] theorem State.withPc_y (s : State) (v : Word) : (State.withPc s v).y = s.y := rfl
@[simp] theorem State.withPc_p (s : State) (v : Word) : (State.withPc s v).p = s.p := rfl
@[simp] theorem State.withPc_pc (s : State) (v : Word) : (State.withPc s v).pc = v := rfl
@[simp] theorem State.withPc_mem (s : State) (v : Word) : (State.withPc s v).mem = s.mem := rfl
@[simp] theorem State.withPc_runState (s : State) (v : Word) : (State.withPc s v).runState = s.runState := rfl
@[simp] theorem State.withPc_fault (s : State) (v : Word) : (State.withPc s v).fault = s.fault := rfl

@[simp] theorem State.withMem_a (s : State) (v : Memory) : (State.withMem s v).a = s.a := rfl
@[simp] theorem State.withMem_x (s : State) (v : Memory) : (State.withMem s v).x = s.x := rfl
@[simp] theorem State.withMem_y (s : State) (v : Memory) : (State.withMem s v).y = s.y := rfl
@[simp] theorem State.withMem_p (s : State) (v : Memory) : (State.withMem s v).p = s.p := rfl
@[simp] theorem State.withMem_pc (s : State) (v : Memory) : (State.withMem s v).pc = s.pc := rfl
@[simp] theorem State.withMem_mem (s : State) (v : Memory) : (State.withMem s v).mem = v := rfl
@[simp] theorem State.withMem_runState (s : State) (v : Memory) : (State.withMem s v).runState = s.runState := rfl
@[simp] theorem State.withMem_fault (s : State) (v : Memory) : (State.withMem s v).fault = s.fault := rfl

@[simp] theorem State.withRunState_a (s : State) (v : RunState) : (State.withRunState s v).a = s.a := rfl
@[simp] theorem State.withRunState_x (s : State) (v : RunState) : (State.withRunState s v).x = s.x := rfl
@[simp] theorem State.withRunState_y (s : State) (v : RunState) : (State.withRunState s v).y = s.y := rfl
@[simp] theorem State.withRunState_p (s : State) (v : RunState) : (State.withRunState s v).p = s.p := rfl
@[simp] theorem State.withRunState_pc (s : State) (v : RunState) : (State.withRunState s v).pc = s.pc := rfl
@[simp] theorem State.withRunState_mem (s : State) (v : RunState) : (State.withRunState s v).mem = s.mem := rfl
@[simp] theorem State.withRunState_runState (s : State) (v : RunState) : (State.withRunState s v).runState = v := rfl
@[simp] theorem State.withRunState_fault (s : State) (v : RunState) : (State.withRunState s v).fault = s.fault := rfl

@[simp] theorem State.advance_a (s : State) (n : Nat) : (State.advance s n).a = s.a := rfl
@[simp] theorem State.advance_x (s : State) (n : Nat) : (State.advance s n).x = s.x := rfl
@[simp] theorem State.advance_y (s : State) (n : Nat) : (State.advance s n).y = s.y := rfl
@[simp] theorem State.advance_p (s : State) (n : Nat) : (State.advance s n).p = s.p := rfl
@[simp] theorem State.advance_pc (s : State) (n : Nat) : (State.advance s n).pc = s.pc + BitVec.ofNat 16 n := rfl
@[simp] theorem State.advance_mem (s : State) (n : Nat) : (State.advance s n).mem = s.mem := rfl
@[simp] theorem State.advance_runState (s : State) (n : Nat) : (State.advance s n).runState = s.runState := rfl
@[simp] theorem State.advance_fault (s : State) (n : Nat) : (State.advance s n).fault = s.fault := rfl

@[simp] theorem raiseUnsupportedAddressingMode_a (op : Byte) (pc0 : Word) (s : State) : (raiseUnsupportedAddressingMode op pc0 s).a = s.a := rfl
@[simp] theorem raiseUnsupportedAddressingMode_x (op : Byte) (pc0 : Word) (s : State) : (raiseUnsupportedAddressingMode op pc0 s).x = s.x := rfl
@[simp] theorem raiseUnsupportedAddressingMode_y (op : Byte) (pc0 : Word) (s : State) : (raiseUnsupportedAddressingMode op pc0 s).y = s.y := rfl
@[simp] theorem raiseUnsupportedAddressingMode_p (op : Byte) (pc0 : Word) (s : State) : (raiseUnsupportedAddressingMode op pc0 s).p = s.p := rfl
@[simp] theorem raiseUnsupportedAddressingMode_pc (op : Byte) (pc0 : Word) (s : State) : (raiseUnsupportedAddressingMode op pc0 s).pc = s.pc := rfl
@[simp] theorem raiseUnsupportedAddressingMode_mem (op : Byte) (pc0 : Word) (s : State) : (raiseUnsupportedAddressingMode op pc0 s).mem = s.mem := rfl
@[simp] theorem raiseUnsupportedAddressingMode_runState (op : Byte) (pc0 : Word) (s : State) : (raiseUnsupportedAddressingMode op pc0 s).runState = s.runState := rfl
@[simp] theorem raiseUnsupportedAddressingMode_fault (op : Byte) (pc0 : Word) (s : State) : (raiseUnsupportedAddressingMode op pc0 s).fault = some ⟨op, pc0⟩ := rfl

end Sys2Proof.Machine
end

