-- ==== Sys2Proof/Laws/Handlers.lean ====
section
/-! SUPPORT. What the shared handlers and the flag update do to each field of State, once (spec/42_load_transfer_increment.md R80, R89, R90; spec/10_state.md R23). -/

namespace Sys2Proof.Machine

@[simp] theorem updateZeroAndNegative_a (s : State) (r : Byte) : (updateZeroAndNegative s r).a = s.a := rfl
@[simp] theorem updateZeroAndNegative_x (s : State) (r : Byte) : (updateZeroAndNegative s r).x = s.x := rfl
@[simp] theorem updateZeroAndNegative_y (s : State) (r : Byte) : (updateZeroAndNegative s r).y = s.y := rfl
@[simp] theorem updateZeroAndNegative_p (s : State) (r : Byte) : (updateZeroAndNegative s r).p = flagUpdate s.p r := rfl
@[simp] theorem updateZeroAndNegative_pc (s : State) (r : Byte) : (updateZeroAndNegative s r).pc = s.pc := rfl
@[simp] theorem updateZeroAndNegative_mem (s : State) (r : Byte) : (updateZeroAndNegative s r).mem = s.mem := rfl
@[simp] theorem updateZeroAndNegative_runState (s : State) (r : Byte) : (updateZeroAndNegative s r).runState = s.runState := rfl
@[simp] theorem updateZeroAndNegative_fault (s : State) (r : Byte) : (updateZeroAndNegative s r).fault = s.fault := rfl

@[simp] theorem loadA_a (s : State) (v : Byte) : (loadA s v).a = v := rfl
@[simp] theorem loadA_x (s : State) (v : Byte) : (loadA s v).x = s.x := rfl
@[simp] theorem loadA_y (s : State) (v : Byte) : (loadA s v).y = s.y := rfl
@[simp] theorem loadA_p (s : State) (v : Byte) : (loadA s v).p = flagUpdate s.p v := rfl
@[simp] theorem loadA_pc (s : State) (v : Byte) : (loadA s v).pc = s.pc := rfl
@[simp] theorem loadA_mem (s : State) (v : Byte) : (loadA s v).mem = s.mem := rfl
@[simp] theorem loadA_runState (s : State) (v : Byte) : (loadA s v).runState = s.runState := rfl
@[simp] theorem loadA_fault (s : State) (v : Byte) : (loadA s v).fault = s.fault := rfl

@[simp] theorem loadX_a (s : State) (v : Byte) : (loadX s v).a = s.a := rfl
@[simp] theorem loadX_x (s : State) (v : Byte) : (loadX s v).x = v := rfl
@[simp] theorem loadX_y (s : State) (v : Byte) : (loadX s v).y = s.y := rfl
@[simp] theorem loadX_p (s : State) (v : Byte) : (loadX s v).p = flagUpdate s.p v := rfl
@[simp] theorem loadX_pc (s : State) (v : Byte) : (loadX s v).pc = s.pc := rfl
@[simp] theorem loadX_mem (s : State) (v : Byte) : (loadX s v).mem = s.mem := rfl
@[simp] theorem loadX_runState (s : State) (v : Byte) : (loadX s v).runState = s.runState := rfl
@[simp] theorem loadX_fault (s : State) (v : Byte) : (loadX s v).fault = s.fault := rfl

end Sys2Proof.Machine
end

