-- ==== Sys2Proof/Laws/HostOps.lean ====
section
/-! SUPPORT. The interface operations as single updates of the state, so that no proof unfolds them (spec/70_reset_and_hazards.md R109, R111; spec/41_dispatch.md R76). -/

namespace Sys2Proof.Machine

theorem hostLoad_tooLarge (program : List Byte) (s : State) (h : 0x8000 < program.length) :
    hostLoad program s = .error (.programTooLarge program.length) :=
  if_pos h

theorem hostLoad_ok (program : List Byte) (s : State) (h : program.length ≤ 0x8000) :
    hostLoad program s = .ok
      { s with
        pc := 0x8000#16
        mem := (s.mem.writeBytes 0x8000#16 program).write16 0xFFFC#16 0x8000#16 } :=
  if_neg (Nat.not_lt.mpr h)

theorem hostReset_eq (s : State) :
    hostReset s = { s with a := 0x00#8, x := 0x00#8, y := 0x00#8, p := 0x00#8, pc := s.mem.read16 0xFFFC#16 } := rfl

/-- Steps with the default configuration are the host's run of `core`. -/
theorem stepsWith_standard (k : Nat) (s : State) :
    Safety.stepsWith Config.standard k s = Host.Core.run core k s := by
  induction k generalizing s with
  | zero => rfl
  | succ k ih =>
    have hc : core.step s = stepWith Config.standard s := rfl
    cases hs : stepWith Config.standard s with
    | next u => simpa only [Safety.stepsWith, Host.Core.run, hc, hs] using ih u
    | fault r => simp only [Safety.stepsWith, Host.Core.run, hc, hs]; rfl
    | refused r => simp only [Safety.stepsWith, Host.Core.run, hc, hs]; rfl

/-- What run(), run_n() and plain stepping do with a first step that leaves a next state. -/
theorem run_of_next (c : Config) (k : Nat) (s u : State) (h : stepWith c s = .next u) :
    hostRun c (k + 1) s = (if u.runState = .halted then some u else hostRun c k u) ∧
      hostRunN c (k + 1) s = (if u.runState = .halted then .next u else hostRunN c k u) ∧
      Safety.stepsWith c (k + 1) s = Safety.stepsWith c k u := by
  simp [hostRun, hostRunN, Safety.stepsWith, h]

/-- A run that returns took a step, which halted or left a state whose run returns on less fuel. -/
theorem hostRun_inv (c : Config) (fuel : Nat) (s t : State) (h : hostRun c fuel s = some t) :
    ∃ n u, fuel = n + 1 ∧ stepWith c s = .next u ∧
      ((u.runState = .halted ∧ u = t) ∨ (u.runState ≠ .halted ∧ hostRun c n u = some t)) := by
  cases fuel with
  | zero => simp [hostRun] at h
  | succ n =>
    rw [hostRun] at h
    cases hs : stepWith c s with
    | next u =>
      simp only [hs] at h
      by_cases hu : u.runState = .halted
      · exact ⟨n, u, rfl, rfl, .inl ⟨hu, by simpa [hu] using h⟩⟩
      · exact ⟨n, u, rfl, rfl, .inr ⟨hu, by simpa [hu] using h⟩⟩
    | fault r => simp [hs] at h
    | refused r => simp [hs] at h

end Sys2Proof.Machine
end

