-- ==== Sys2Proof/Laws/Memory.lean ====
section
/-! SUPPORT. The laws of memory: reading one address after replacing another, and that every operation keeps the canonical form (spec/20_memory.md R30 to R35). -/

namespace Sys2Proof.Machine

theorem Memory.get_erase (m : Memory) (n k : Nat) :
    Memory.get (Memory.erase m n) k = if k = n then Memory.unlisted else Memory.get m k := by
  induction m with
  | nil => simp [Memory.erase, Memory.get]
  | cons c rest ih =>
    obtain ⟨j, w⟩ := c
    simp only [Memory.erase] at ih ⊢
    by_cases hj : j = n
    · subst hj
      rw [List.filter_cons_of_neg (by simp), ih]
      by_cases hk : k = j
      · simp [hk]
      · simp [Memory.get, hk, Ne.symm hk]
    · rw [List.filter_cons_of_pos (by simpa using hj)]
      by_cases hk : j = k
      · subst hk; simp [Memory.get, hj]
      · simp only [Memory.get, if_neg hk, ih]

theorem Memory.get_insert (m : Memory) (n k : Nat) (v : Byte) (h : ∀ c ∈ m, c.1 ≠ n) :
    Memory.get (Memory.insert m n v) k = if k = n then v else Memory.get m k := by
  induction m with
  | nil =>
    by_cases hk : k = n
    · simp [Memory.insert, Memory.get, hk]
    · simp [Memory.insert, Memory.get, hk, Ne.symm hk]
  | cons c rest ih =>
    obtain ⟨j, w⟩ := c
    have hj : j ≠ n := h (j, w) (by simp)
    have ih := ih (fun c hc => h c (by simp [hc]))
    by_cases hn : n < j
    · by_cases hk : k = n
      · simp [Memory.insert, hn, Memory.get, hk]
      · simp [Memory.insert, hn, Memory.get, hk, Ne.symm hk]
    · by_cases hk : j = k
      · subst hk; simp [Memory.insert, hn, Memory.get, hj]
      · simp only [Memory.insert, if_neg hn, Memory.get, if_neg hk, ih]

theorem Memory.erase_avoids (m : Memory) (n : Nat) : ∀ c ∈ Memory.erase m n, c.1 ≠ n := by
  intro c hc
  simpa using (List.mem_filter.mp hc).2

/-- Replacing one byte gives that byte at its address and leaves every other address alone, in any list of cells. -/
theorem Memory.get_set (m : Memory) (n k : Nat) (v : Byte) :
    Memory.get (Memory.set m n v) k = if k = n then v else Memory.get m k := by
  unfold Memory.set
  split
  · next hv => rw [Memory.get_erase, hv]
  · rw [Memory.get_insert _ _ _ _ (Memory.erase_avoids m n), Memory.get_erase]
    by_cases hk : k = n <;> simp [hk]

theorem Memory.wf_cons (k : Nat) (v : Byte) (m : Memory) :
    Memory.wf ((k, v) :: m) = true ↔
      k < 65536 ∧ v ≠ Memory.unlisted ∧ (∀ c ∈ m, k < c.1) ∧ Memory.wf m = true := by
  simp [Memory.wf, and_assoc]

theorem Memory.wf_erase (m : Memory) (n : Nat) (h : Memory.wf m = true) :
    Memory.wf (Memory.erase m n) = true := by
  induction m with
  | nil => rfl
  | cons c rest ih =>
    obtain ⟨k, w⟩ := c
    obtain ⟨hk, hw, hlt, hrest⟩ := (Memory.wf_cons k w rest).mp h
    by_cases hn : k = n
    · simpa [Memory.erase, hn] using ih hrest
    · have : Memory.erase ((k, w) :: rest) n = (k, w) :: Memory.erase rest n := by
        simp [Memory.erase, hn]
      rw [this, Memory.wf_cons]
      exact ⟨hk, hw, fun c hc => hlt c (List.mem_filter.mp hc).1, ih hrest⟩

theorem Memory.mem_insert (m : Memory) (n : Nat) (v : Byte) (c : Host.Cell)
    (h : c ∈ Memory.insert m n v) : c = (n, v) ∨ c ∈ m := by
  induction m with
  | nil => simpa [Memory.insert] using h
  | cons d rest ih =>
    obtain ⟨k, w⟩ := d
    by_cases hn : n < k
    · simpa [Memory.insert, hn] using h
    · simp only [Memory.insert, if_neg hn, List.mem_cons] at h ⊢
      rcases h with h | h
      · exact .inr (.inl h)
      · rcases ih h with h | h
        · exact .inl h
        · exact .inr (.inr h)

theorem Memory.wf_insert (m : Memory) (n : Nat) (v : Byte) (h : Memory.wf m = true) (hn : n < 65536)
    (hv : v ≠ Memory.unlisted) (hav : ∀ c ∈ m, c.1 ≠ n) : Memory.wf (Memory.insert m n v) = true := by
  induction m with
  | nil => simp [Memory.insert, Memory.wf, hn, hv]
  | cons c rest ih =>
    obtain ⟨k, w⟩ := c
    obtain ⟨hk, hw, hlt, hrest⟩ := (Memory.wf_cons k w rest).mp h
    have hkn : k ≠ n := hav (k, w) (by simp)
    by_cases hnk : n < k
    · simp only [Memory.insert, if_pos hnk]
      refine (Memory.wf_cons n v _).mpr ⟨hn, hv, ?_, h⟩
      intro c hc
      rcases List.mem_cons.mp hc with rfl | hc
      · exact hnk
      · exact lt_trans hnk (hlt c hc)
    · simp only [Memory.insert, if_neg hnk]
      refine (Memory.wf_cons k w _).mpr ⟨hk, hw, ?_, ih hrest (fun c hc => hav c (by simp [hc]))⟩
      intro c hc
      rcases Memory.mem_insert rest n v c hc with rfl | hc
      · show k < n
        omega
      · exact hlt c hc

theorem Memory.wf_set (m : Memory) (n : Nat) (v : Byte) (h : Memory.wf m = true) (hn : n < 65536) :
    Memory.wf (Memory.set m n v) = true := by
  unfold Memory.set
  split
  · exact Memory.wf_erase m n h
  · next hv => exact Memory.wf_insert _ n v (Memory.wf_erase m n h) hn hv (Memory.erase_avoids m n)

theorem Memory.wf_write (m : Memory) (addr : Word) (v : Byte) (h : Memory.wf m = true) :
    Memory.wf (Memory.write m addr v) = true :=
  Memory.wf_set m addr.toNat v h addr.isLt

theorem Memory.wf_write16 (m : Memory) (addr v : Word) (h : Memory.wf m = true) :
    Memory.wf (Memory.write16 m addr v) = true :=
  Memory.wf_write _ _ _ (Memory.wf_write m addr _ h)

theorem Memory.wf_writeBytes (bytes : List Byte) (m : Memory) (addr : Word) (h : Memory.wf m = true) :
    Memory.wf (Memory.writeBytes m addr bytes) = true := by
  induction bytes generalizing m addr with
  | nil => exact h
  | cons b rest ih => exact ih _ _ (Memory.wf_write m addr b h)

theorem reset_memory_wf : Memory.wf State.reset.mem = true := rfl

end Sys2Proof.Machine
end

