-- ==== Sys2Proof/Laws/PerInstr.lean ====
section
/-! SUPPORT. Per-instruction family EncodedLength: the encoding of an instruction is as long as its opcode byte says (spec/30_encoding.md R47, R48, R55). -/

namespace Sys2Proof.Laws.EncodedLength

/-- A well-formed instruction's bytes are an opcode byte followed by as many bytes as that opcode's mode asks for. -/
def Statement (i : Instr) : Prop :=
  i.wf = true → ∃ op operands, encode i = op :: operands ∧ operands.length = (entryOf op).mode.width

theorem halt : Statement .halt := fun _ => ⟨_, _, rfl, rfl⟩

theorem nopUnmapped (op : Byte) : Statement (.nopUnmapped op) := by
  intro h
  have hop : mappedOpcodes.contains op = false := by simpa [Instr.wf] using h
  exact ⟨op, [], rfl, by rw [entryOf_unmapped op hop]; rfl⟩

theorem ldaIndX (b1 : Byte) : Statement (.ldaIndX b1) := fun _ => ⟨_, _, rfl, rfl⟩

theorem ldaZp (b1 : Byte) : Statement (.ldaZp b1) := fun _ => ⟨_, _, rfl, rfl⟩

theorem ldaImm (b1 : Byte) : Statement (.ldaImm b1) := fun _ => ⟨_, _, rfl, rfl⟩

theorem tax : Statement .tax := fun _ => ⟨_, _, rfl, rfl⟩

theorem ldaAbs (addr : Word) : Statement (.ldaAbs addr) := fun _ => ⟨_, _, rfl, rfl⟩

theorem ldaIndY (b1 : Byte) : Statement (.ldaIndY b1) := fun _ => ⟨_, _, rfl, rfl⟩

theorem ldaZpX (b1 : Byte) : Statement (.ldaZpX b1) := fun _ => ⟨_, _, rfl, rfl⟩

theorem ldaAbsY (addr : Word) : Statement (.ldaAbsY addr) := fun _ => ⟨_, _, rfl, rfl⟩

theorem ldaAbsX (addr : Word) : Statement (.ldaAbsX addr) := fun _ => ⟨_, _, rfl, rfl⟩

theorem inx : Statement .inx := fun _ => ⟨_, _, rfl, rfl⟩

end Sys2Proof.Laws.EncodedLength
end

