-- ==== Sys2Proof/Laws/Step.lean ====
section
/-! SUPPORT. Everything an instruction and a step can do, once (spec/41_dispatch.md R71, R72). -/

namespace Sys2Proof.Machine

/-- The effect of every instruction: the state itself, the run state Halted, or A or X loaded with its flags; then PC past the
instruction's bytes, and nothing else (R72, R74, R75, R80, R89, R90). -/
theorem exec_shape (i : Instr) (s : State) :
    ∃ r, (r = s ∨ r = State.withRunState s .halted ∨ (∃ v, r = loadA s v) ∨ ∃ v, r = loadX s v) ∧
      exec i s = .next (State.advance r (encode i).length) := by
  cases i with
  | halt => exact ⟨_, .inr (.inl rfl), rfl⟩
  | nopUnmapped op => exact ⟨_, .inl rfl, rfl⟩
  | ldaIndX b1 => exact ⟨_, .inr (.inr (.inl ⟨_, rfl⟩)), rfl⟩
  | ldaZp b1 => exact ⟨_, .inr (.inr (.inl ⟨_, rfl⟩)), rfl⟩
  | ldaImm b1 => exact ⟨_, .inr (.inr (.inl ⟨_, rfl⟩)), rfl⟩
  | tax => exact ⟨_, .inr (.inr (.inr ⟨_, rfl⟩)), rfl⟩
  | ldaAbs addr => exact ⟨_, .inr (.inr (.inl ⟨_, rfl⟩)), rfl⟩
  | ldaIndY b1 => exact ⟨_, .inr (.inr (.inl ⟨_, rfl⟩)), rfl⟩
  | ldaZpX b1 => exact ⟨_, .inr (.inr (.inl ⟨_, rfl⟩)), rfl⟩
  | ldaAbsY addr => exact ⟨_, .inr (.inr (.inl ⟨_, rfl⟩)), rfl⟩
  | ldaAbsX addr => exact ⟨_, .inr (.inr (.inl ⟨_, rfl⟩)), rfl⟩
  | inx => exact ⟨_, .inr (.inr (.inr ⟨_, rfl⟩)), rfl⟩

/-- What a next state of a step comes from: no fault record, bytes that decode, and that instruction executed while Running. -/
theorem step_next_inv (c : Config) (s t : State) (h : stepWith c s = .next t) :
    s.fault = none ∧ ∃ i rest, decodeWith c (fetchBytes s.mem s.pc) = .ok (i, rest) ∧
      exec i (State.withRunState s .running) = .next t := by
  unfold stepWith at h
  split at h
  · exact absurd h (by simp)
  · next hf =>
    refine ⟨hf, ?_⟩
    simp only [cycle, State.withRunState_mem, State.withRunState_pc] at h
    split at h
    · next i rest hd => exact ⟨i, rest, hd, h⟩
    · exact absurd h (by simp)

end Sys2Proof.Machine
end

