-- ==== Sys2Proof/Tests/Slice0.lean ====
section
/-! SUPPORT. Small tests, each expected value taken from spec/ (the vectors of 95_test_vectors.md and the examples of the rules), and a witness for the hypotheses of every statement. -/

namespace Sys2Proof.Tests

open Sys2Proof.Machine Sys2Proof.Safety

/-- A CORE at the load origin over a memory that holds the bytes there and the listed cells. -/
def start (bytes : List Byte) (cells : List (Word × Byte)) : State :=
  { State.reset with
    pc := 0x8000#16
    mem := Memory.writeBytes (cells.foldl (fun m c => Memory.write m c.1 c.2) []) 0x8000#16 bytes }

/-- The next state, if any. -/
def nextOf : Host.Outcome State Fault Refusal → Option State
  | .next t => some t
  | .fault _ => none
  | .refused _ => none

/-- `A X Y P PC` after one step, as 95_test_vectors.md writes a state. -/
def after (s : State) : Option (Byte × Byte × Byte × Byte × Word) :=
  (nextOf (step s)).map (fun t => (t.a, t.x, t.y, t.p, t.pc))

/-- The decoded instruction alone. -/
def decoded (bytes : List Byte) : Option Instr :=
  match decode bytes with
  | .ok (i, _) => some i
  | .error _ => none

/-! ### Well-formedness: the one check, refused -/

theorem test_wf_refuses_mapped_nop : (Instr.nopUnmapped 0xA9#8).wf = false := by decide
theorem test_wf_refuses_every_mapped_nop : mappedOpcodes.all (fun op => !(Instr.nopUnmapped op).wf) = true := by decide
theorem test_wf_admits_unmapped_nop : (Instr.nopUnmapped 0xEA#8).wf = true := by decide

/-! ### Decoding: words from R50, R52, R56 -/

theorem test_decode_halt : decoded [0x00#8] = some .halt := by decide
theorem test_decode_lda_ind_x : decoded [0xA1#8, 0x10#8] = some (.ldaIndX 0x10#8) := by decide
theorem test_decode_lda_zp : decoded [0xA5#8, 0x10#8] = some (.ldaZp 0x10#8) := by decide
theorem test_decode_lda_imm : decoded [0xA9#8, 0x05#8] = some (.ldaImm 0x05#8) := by decide
theorem test_decode_tax : decoded [0xAA#8] = some .tax := by decide
theorem test_decode_lda_abs : decoded [0xAD#8, 0x34#8, 0x12#8] = some (.ldaAbs 0x1234#16) := by decide
theorem test_decode_lda_ind_y : decoded [0xB1#8, 0x10#8] = some (.ldaIndY 0x10#8) := by decide
theorem test_decode_lda_zp_x : decoded [0xB5#8, 0x10#8] = some (.ldaZpX 0x10#8) := by decide
theorem test_decode_lda_abs_y : decoded [0xB9#8, 0x34#8, 0x12#8] = some (.ldaAbsY 0x1234#16) := by decide
theorem test_decode_lda_abs_x : decoded [0xBD#8, 0x34#8, 0x12#8] = some (.ldaAbsX 0x1234#16) := by decide
theorem test_decode_inx : decoded [0xE8#8] = some .inx := by decide
/-- 0x4C is JMP on a 6502 and a one-byte no-op here (R54, P4). -/
theorem test_decode_unmapped : decoded [0x4C#8, 0x00#8, 0x80#8] = some (.nopUnmapped 0x4C#8) := by decide
theorem test_decode_refuses_nothing : decode [] = .error .noOpcode := rfl
theorem test_decode_refuses_short_operand : decode [0xAD#8, 0x34#8] = .error .truncated := rfl
theorem test_decode_refuses_mode_without_opcode : decodeLda .zeroPageY [0x10#8] = .error .noSuchForm := rfl
/-- D2: with the parameter refused, 0xB1 is refused and 0xA9 is not. -/
theorem test_decode_refused_mode :
    decodeWith ⟨.refused⟩ [0xB1#8, 0x10#8] = .error (.extendedModeRefused 0xB1#8) ∧
      decodeWith ⟨.refused⟩ [0xA9#8, 0x10#8] = .ok (.ldaImm 0x10#8, []) := ⟨rfl, rfl⟩
/-- No two rows of R50's table share an opcode byte. -/
theorem test_table_has_no_overlap : (opcodeTable.map Entry.opcode).Nodup := by decide
theorem test_encode_lda_abs : encode (.ldaAbs 0x1234#16) = [0xAD#8, 0x34#8, 0x12#8] := by decide
theorem test_table_word : decodeTableWord 8 0xAD = some (.ldaAbs 0x0000#16) := by decide
theorem test_fetch_word : (nextOf (step (State.reset.withFetchWord 16 0x05A9))).map State.a = some 0x05#8 := by decide

/-! ### The instructions, one step each -/

/-- P1, first row. -/
theorem test_lda_imm : after (start [0xA9#8, 0xC0#8] []) = some (0xC0#8, 0x00#8, 0x00#8, 0x80#8, 0x8002#16) := by decide
/-- V-PC-1: the opcode at 0xFFFF, the operand at 0x0000. -/
theorem test_lda_imm_wraps :
    after { State.reset with pc := 0xFFFF#16, mem := [(0x0000, 0x42#8), (0xFFFF, 0xA9#8)] } =
      some (0x42#8, 0x00#8, 0x00#8, 0x00#8, 0x0001#16) := by decide
/-- R82's example. -/
theorem test_lda_zp :
    after (start [0xA5#8, 0x10#8] [(0x0010#16, 0x80#8)]) = some (0x80#8, 0x00#8, 0x00#8, 0x80#8, 0x8002#16) := by decide
/-- P5, third row: 0x007F, not 0x017F. -/
theorem test_lda_zp_x_wraps :
    after ((start [0xB5#8, 0xFF#8] [(0x007F#16, 0x01#8), (0x017F#16, 0xEE#8)]).withX 0x80#8) =
      some (0x01#8, 0x80#8, 0x00#8, 0x00#8, 0x8002#16) := by decide
/-- V-PC-2: the operand across 0xFFFF. -/
theorem test_lda_abs_wraps :
    after { State.reset with
      pc := 0xFFFE#16, mem := [(0x0000, 0x12#8), (0x1234, 0x99#8), (0xFFFE, 0xAD#8), (0xFFFF, 0x34#8)] } =
      some (0x99#8, 0x00#8, 0x00#8, 0x80#8, 0x0001#16) := by decide
/-- V-LDA-16: it reads its own opcode byte. -/
theorem test_lda_abs_own_bytes :
    after (start [0xAD#8, 0x00#8, 0x80#8] []) = some (0xAD#8, 0x00#8, 0x00#8, 0x80#8, 0x8003#16) := by decide
/-- R85: `BD 91 FF` with X = 0x80 reads 0x0011 (V-LDA-10). -/
theorem test_lda_abs_x_wraps :
    after ((start [0xBD#8, 0x91#8, 0xFF#8] [(0x0011#16, 0x7E#8)]).withX 0x80#8) =
      some (0x7E#8, 0x80#8, 0x00#8, 0x00#8, 0x8003#16) := by decide
/-- R86: `B9 F0 FF` with Y = 0x20 reads 0x0010. -/
theorem test_lda_abs_y_wraps :
    after ((start [0xB9#8, 0xF0#8, 0xFF#8] [(0x0010#16, 0x01#8)]).withY 0x20#8) =
      some (0x01#8, 0x00#8, 0x20#8, 0x00#8, 0x8003#16) := by decide
/-- V-AM-11 and P2: pointer 0xFF, high byte from 0x0000 and not from 0x0100. -/
theorem test_lda_ind_x_wraps :
    after ((start [0xA1#8, 0x00#8]
      [(0x00FF#16, 0x34#8), (0x0000#16, 0x12#8), (0x0100#16, 0x99#8), (0x1234#16, 0x7F#8)]).withX 0xFF#8) =
      some (0x7F#8, 0xFF#8, 0x00#8, 0x00#8, 0x8002#16) := by decide
/-- P3, first row: base 0xFFF0 plus Y wraps to 0x0010. -/
theorem test_lda_ind_y_wraps :
    after ((start [0xB1#8, 0xFF#8] [(0x00FF#16, 0xF0#8), (0x0000#16, 0xFF#8), (0x0010#16, 0x80#8)]).withY 0x20#8) =
      some (0x80#8, 0x00#8, 0x20#8, 0x80#8, 0x8002#16) := by decide
/-- V-TAX-3: flags recomputed although X does not change. -/
theorem test_tax_recomputes :
    after (((start [0xAA#8] []).withA 0x42#8).withX 0x42#8 |>.withP 0x82#8) =
      some (0x42#8, 0x42#8, 0x00#8, 0x00#8, 0x8001#16) := by decide
/-- V-TAX-4: the other bits of P stay. -/
theorem test_tax_keeps_other_flags :
    after (((start [0xAA#8] []).withA 0x7F#8).withX 0xFF#8 |>.withP 0x7D#8) =
      some (0x7F#8, 0x7F#8, 0x00#8, 0x7D#8, 0x8001#16) := by decide
/-- V-INX-5: 0xFF wraps, bits 0 and 6 stay. -/
theorem test_inx_wraps :
    after (((start [0xE8#8] []).withX 0xFF#8).withP 0x41#8) = some (0x00#8, 0x00#8, 0x00#8, 0x43#8, 0x8001#16) := by decide
/-- V-INX-3. -/
theorem test_inx_negative :
    after ((start [0xE8#8] []).withX 0x7F#8) = some (0x00#8, 0x80#8, 0x00#8, 0x80#8, 0x8001#16) := by decide
/-- V-HLT-1: a new CORE halts at once. -/
theorem test_halt_new :
    (nextOf (step State.reset)).map (fun t => (t.pc, t.runState)) = some (0x0001#16, .halted) := by decide
/-- V-HLT-3. -/
theorem test_halt_writes_no_register :
    after (((start [0x00#8] []).withA 0x55#8).withP 0x41#8) = some (0x55#8, 0x00#8, 0x00#8, 0x41#8, 0x8001#16) := by decide
/-- R75's example. -/
theorem test_nop :
    after (((start [0xEA#8] []).withA 0x12#8).withP 0x80#8) = some (0x12#8, 0x00#8, 0x00#8, 0x80#8, 0x8001#16) := by decide
/-- V-NOP-3, first step: 0x8D stores nothing and skips no operand byte. -/
theorem test_nop_skips_no_operand :
    (nextOf (step (start [0x8D#8, 0x00#8, 0x02#8] []))).map (fun t => (t.pc, t.mem.read 0x0200#16)) =
      some (0x8001#16, 0x00#8) := by decide

/-! ### Shared operations -/

/-- V-FL-6 to V-FL-9. -/
theorem test_flag_update :
    flagUpdate 0x7D#8 0x00#8 = 0x7F#8 ∧ flagUpdate 0x7D#8 0x80#8 = 0xFD#8 ∧ flagUpdate 0xFF#8 0x01#8 = 0x7D#8 ∧
      flagUpdate 0x82#8 0x05#8 = 0x00#8 := by decide
/-- V-MEM-2, V-MEM-3, V-MEM-4. -/
theorem test_two_byte_accesses :
    Memory.read16 [(0x0000, 0xAB#8), (0xFFFF, 0xCD#8)] 0xFFFF#16 = 0xABCD#16 ∧
      Memory.write16 [] 0xFFFF#16 0x1234#16 = [(0x0000, 0x12#8), (0xFFFF, 0x34#8)] ∧
      Memory.read16 [(0x00FF, 0x11#8), (0x0100, 0x22#8)] 0x00FF#16 = 0x2211#16 := by decide
/-- Writing what an unlisted address reads as removes the entry, and entries stay in address order. -/
theorem test_canonical_form :
    Memory.write [(0x10, 0x01#8), (0x30, 0x02#8)] 0x0010#16 0x00#8 = [(0x30, 0x02#8)] ∧
      Memory.write [(0x10, 0x01#8), (0x30, 0x02#8)] 0x0020#16 0x05#8 = [(0x10, 0x01#8), (0x20, 0x05#8), (0x30, 0x02#8)] ∧
      Memory.wf [(0x30, 0x02#8), (0x10, 0x01#8)] = false ∧ Memory.wf [(0x10, 0x00#8)] = false ∧
      Memory.wf [(0x10000, 0x01#8)] = false := by decide
/-- V-AM-6 and V-AM-17: the two modes no opcode resolves. -/
theorem test_resolver_unused_modes :
    resolve .zeroPageY 0x8001#16 0x00#8 0x20#8 [(0x8001, 0xF0#8)] = some (.addr 0x0010#16) ∧
      resolve .noneAddressing 0x8001#16 0x00#8 0x20#8 [] = none := by decide
/-- V-AM-16: pre-indexed against post-indexed. -/
theorem test_resolver_indirect_modes :
    resolve .indirectY 0x8001#16 0x02#8 0x02#8 [(0x10, 0x00#8), (0x11, 0x40#8), (0x12, 0x00#8), (0x13, 0x50#8), (0x8001, 0x10#8)] =
        some (.addr 0x4002#16) ∧
      resolve .indirectX 0x8001#16 0x02#8 0x02#8 [(0x10, 0x00#8), (0x11, 0x40#8), (0x12, 0x00#8), (0x13, 0x50#8), (0x8001, 0x10#8)] =
        some (.addr 0x5000#16) := by decide
/-- V-ERR-1 and V-ERR-2: an entry that resolves NoneAddressing; the record survives reset() and stops the step. -/
theorem test_none_addressing_fault :
    (runEntry ⟨0x02#8, .lda, .noneAddressing⟩ (start [0x02#8] [])).fault = some ⟨0x02#8, 0x8000#16⟩ ∧
      (runEntry ⟨0x02#8, .lda, .noneAddressing⟩ (start [0x02#8] [])).pc = 0x8001#16 ∧
      nextOf (step (hostReset (runEntry ⟨0x02#8, .lda, .noneAddressing⟩ (start [0x02#8] [])))) = none := by decide

/-- The memory and PC after a `load` that succeeds. -/
def loaded (program : List Byte) (s : State) : State :=
  match hostLoad program s with
  | .ok t => t
  | .error _ => s

/-- E10: an empty program. -/
theorem test_load_empty : (loaded [] hostNew).mem = [(0xFFFD, 0x80#8)] ∧ (loaded [] hostNew).pc = 0x8000#16 := by decide
/-- V-LR-7: a second load does not clear. -/
theorem test_load_keeps_memory :
    (loaded [0xAA#8] (loaded [0x01#8, 0x02#8, 0x03#8] hostNew)).mem =
      [(0x8000, 0xAA#8), (0x8001, 0x02#8), (0x8002, 0x03#8), (0xFFFD, 0x80#8)] := by decide
/-- V-LR-5: reset() reads the vector the host wrote. -/
theorem test_reset_reads_vector :
    (hostReset (hostWrite (hostWrite (loaded [] hostNew) 0xFFFC#16 0x34#8) 0xFFFD#16 0x12#8)).pc = 0x1234#16 := by decide

/-! ### Witnesses: a concrete state and operands that meet each statement's hypotheses -/

theorem witness_DecodeOfEncodeIsIdentity :
    (Instr.nopUnmapped 0x01#8).wf = true ∧ (Instr.ldaAbsX 0xFFFF#16).wf = true ∧ Instr.halt.wf = true := by decide
theorem witness_DecodedBytesAreTheEncoding : decode [0xB9#8, 0xFF#8, 0x00#8, 0x55#8] = .ok (.ldaAbsY 0x00FF#16, [0x55#8]) := rfl
theorem witness_UnmappedOpcodesAreOneByteNops :
    0x01#8 ∉ mappedOpcodes ∧ 0xA0#8 ∉ mappedOpcodes ∧ 0xFF#8 ∉ mappedOpcodes := by decide
theorem witness_StepRunsDecodedInstruction :
    (start [0xA9#8, 0x05#8] []).fault = none ∧
      decode (fetchBytes (start [0xA9#8, 0x05#8] []).mem (start [0xA9#8, 0x05#8] []).pc) = .ok (.ldaImm 0x05#8, []) := ⟨rfl, rfl⟩
theorem witness_StepRunsEncodedInstruction : State.reset.fault = none ∧ (Instr.ldaIndY 0xFF#8).wf = true := by decide
theorem witness_StepFollowsDispatchPseudocode :
    (start [] []).fault = none ∧ ({ State.reset with fault := some ⟨0x02#8, 0x8000#16⟩ } : State).fault = some ⟨0x02#8, 0x8000#16⟩ := by
  decide
theorem witness_UnfaultedStepAlwaysCompletes : State.reset.fault = none := rfl
/-- Each length, and R72's instruction across 0xFFFF. -/
theorem witness_StepAdvancesPcByLength :
    nextOpcode (start [0xB1#8] []) ∈ [0xA9#8, 0xA5#8, 0xB5#8, 0xA1#8, 0xB1#8] ∧
      nextOpcode (start [0xB9#8] []) ∈ [0xAD#8, 0xBD#8, 0xB9#8] ∧ nextOpcode (start [0xFF#8] []) = 0xFF#8 ∧
      nextOpcode { State.reset with pc := 0xFFFE#16, mem := [(0xFFFE, 0xAD#8)] } = 0xAD#8 := by decide
theorem witness_StepFrame : ∃ t, step (start [0xA9#8, 0x80#8] []) = .next t := ⟨_, rfl⟩
theorem not_lda_halt : ¬ IsLda .halt := by simp [IsLda]
theorem not_lda_inx : ¬ IsLda .inx := by simp [IsLda]
theorem witness_AccumulatorIsWrittenByLdaAndReadByTax :
    ((∃ t, exec .inx State.reset = .next t) ∧ ¬ IsLda .inx ∧ Instr.inx ≠ .tax) ∧ (∃ t, exec .tax State.reset = .next t) ∧
      (∃ t, exec (.ldaImm 0x00#8) State.reset = .next t) ∧ IsLda (.ldaImm 0x00#8) :=
  ⟨⟨⟨_, rfl⟩, not_lda_inx, by decide⟩, ⟨_, rfl⟩, ⟨_, rfl⟩, .inl ⟨_, rfl⟩⟩
theorem witness_IndexRegistersAreWrittenByTaxAndInxOnly :
    (∃ t, exec (.ldaImm 0xFF#8) State.reset = .next t) ∧ Instr.ldaImm 0xFF#8 ≠ .tax ∧ Instr.ldaImm 0xFF#8 ≠ .inx :=
  ⟨⟨_, rfl⟩, by decide, by decide⟩
theorem witness_FlagUpdateIsTheOnlyWriterOfP :
    ((∃ t, exec (.ldaAbsX 0xFFFF#16) State.reset = .next t) ∧ IsLda (.ldaAbsX 0xFFFF#16)) ∧
      ((∃ t, exec .inx State.reset = .next t) ∧ (Instr.inx = .tax ∨ Instr.inx = .inx)) ∧
      ((∃ t, exec .halt State.reset = .next t) ∧ ¬ IsLda .halt ∧ Instr.halt ≠ .tax ∧ Instr.halt ≠ .inx) :=
  ⟨⟨⟨_, rfl⟩, .inr (.inr (.inr (.inr (.inl ⟨_, rfl⟩))))⟩, ⟨⟨_, rfl⟩, .inr rfl⟩, ⟨_, rfl⟩, not_lda_halt, by decide, by decide⟩
theorem witness_StatusByteNeverInfluencesExecution : ∃ t, step (start [0xE8#8] []) = .next t := ⟨_, rfl⟩
theorem witness_StepHaltsExactlyOnHaltOpcode :
    (∃ t, step (start [0x00#8] []) = .next t ∧ t.runState = .halted) ∧
      ∃ t, step (start [0x01#8] []) = .next t ∧ t.runState = .running := ⟨⟨_, rfl, rfl⟩, _, rfl, rfl⟩
theorem witness_StepKeepsInvariant :
    Inv (start [0xA9#8, 0x00#8] []) ∧ ∃ t, step (start [0xA9#8, 0x00#8] []) = .next t := ⟨by decide, _, rfl⟩
theorem witness_HostOperationsKeepInvariant :
    Inv State.reset ∧ (∃ t, hostLoad [0x00#8] State.reset = .ok t) ∧ ∃ t, hostRun Config.standard 1 State.reset = some t :=
  ⟨by decide, ⟨_, rfl⟩, _, rfl⟩
theorem witness_LdaFrame :
    (IsLda (.ldaImm 0x00#8) ∧ ∃ t, exec (.ldaImm 0x00#8) State.reset = .next t) ∧
      IsLda (.ldaIndY 0xFF#8) ∧ ∃ t, exec (.ldaIndY 0xFF#8) State.reset = .next t :=
  ⟨⟨.inl ⟨_, rfl⟩, _, rfl⟩, .inr (.inr (.inr (.inr (.inr (.inr (.inr ⟨_, rfl⟩)))))), _, rfl⟩
theorem witness_LdaImmediateStep :
    (start [0xA9#8, 0xFF#8] []).fault = none ∧ (start [0xA9#8, 0xFF#8] []).mem.read 0x8000#16 = 0xA9#8 := by decide
theorem witness_LdaZeroPageStep :
    (start [0xA5#8, 0xFF#8] []).fault = none ∧ (start [0xA5#8, 0xFF#8] []).mem.read 0x8000#16 = 0xA5#8 := by decide
theorem witness_LdaZeroPageXStep :
    (start [0xB5#8, 0xFF#8] []).fault = none ∧ (start [0xB5#8, 0xFF#8] []).mem.read 0x8000#16 = 0xB5#8 := by decide
theorem witness_LdaAbsoluteStep :
    (start [0xAD#8, 0xFF#8] []).fault = none ∧ (start [0xAD#8, 0xFF#8] []).mem.read 0x8000#16 = 0xAD#8 := by decide
theorem witness_LdaAbsoluteXStep :
    (start [0xBD#8, 0xFF#8] []).fault = none ∧ (start [0xBD#8, 0xFF#8] []).mem.read 0x8000#16 = 0xBD#8 := by decide
theorem witness_LdaAbsoluteYStep :
    (start [0xB9#8, 0xFF#8] []).fault = none ∧ (start [0xB9#8, 0xFF#8] []).mem.read 0x8000#16 = 0xB9#8 := by decide
theorem witness_LdaIndirectXStep :
    (start [0xA1#8, 0xFF#8] []).fault = none ∧ (start [0xA1#8, 0xFF#8] []).mem.read 0x8000#16 = 0xA1#8 := by decide
theorem witness_LdaIndirectYStep :
    (start [0xB1#8, 0xFF#8] []).fault = none ∧ (start [0xB1#8, 0xFF#8] []).mem.read 0x8000#16 = 0xB1#8 := by decide
theorem witness_TaxAndInxFrame :
    (∃ t, exec .tax State.reset = .next t) ∧ ∃ t, exec .inx State.reset = .next t := ⟨⟨_, rfl⟩, _, rfl⟩
theorem witness_TaxStep :
    (start [0xAA#8] []).fault = none ∧ (start [0xAA#8] []).mem.read 0x8000#16 = 0xAA#8 := by decide
theorem witness_InxStep :
    ((start [0xE8#8] []).withX 0xFF#8).fault = none ∧ ((start [0xE8#8] []).withX 0xFF#8).mem.read 0x8000#16 = 0xE8#8 := by decide
theorem witness_HaltAndNopFrame :
    (∃ t, exec .halt State.reset = .next t) ∧
      ∃ t, exec (.nopUnmapped 0xFF#8) State.reset = .next t ∧ Instr.nopUnmapped 0xFF#8 ≠ .halt :=
  ⟨⟨_, rfl⟩, _, rfl, by decide⟩
theorem witness_HaltStep : State.reset.fault = none ∧ State.reset.mem.read State.reset.pc = 0x00#8 := by decide
theorem witness_UnmappedOpcodeStep :
    (start [0xFF#8] []).fault = none ∧ (start [0xFF#8] []).mem.read (start [0xFF#8] []).pc ∉ mappedOpcodes := by decide
theorem witness_ResolverZeroPageModes :
    (∃ ea, resolve .zeroPage 0x0000#16 0xFF#8 0xFF#8 [(0x0000, 0xFF#8)] = some ea) ∧
      ∃ ea, resolve .zeroPageX 0x0000#16 0xFF#8 0xFF#8 [(0x0000, 0xFF#8)] = some ea := ⟨⟨_, rfl⟩, _, rfl⟩
/-- A pointer at 0xFF, by the sum and by the byte itself. -/
theorem witness_ResolverIndexedAndIndirectModes :
    Memory.read [(0x8001, 0xFE#8)] 0x8001#16 + 0x01#8 = 0xFF#8 ∧ Memory.read [(0x8001, 0xFF#8)] 0x8001#16 = 0xFF#8 := by decide
theorem witness_ByteWriteChangesOneByte : ∃ t, step (start [0xAD#8, 0x00#8, 0x80#8] []) = .next t := ⟨_, rfl⟩
theorem witness_NoneAddressingRaisesStickyFault : ∃ t, step State.reset = .next t := ⟨_, rfl⟩
theorem witness_FaultRecordIsSticky :
    ({ State.reset with fault := some ⟨0xFF#8, 0xFFFF#16⟩ } : State).fault = some ⟨0xFF#8, 0xFFFF#16⟩ ∧
      ∃ t, hostLoad [] { State.reset with fault := some ⟨0xFF#8, 0xFFFF#16⟩ } = .ok t := ⟨rfl, _, rfl⟩
/-- A program of `n` bytes. -/
def programOf (n : Nat) : List Byte := List.replicate n 0xAB#8

theorem programOf_length (n : Nat) : (programOf n).length = n := List.length_replicate

/-- The lengths on both sides of the bound, for the statements about `load`. -/
theorem witness_TooLargeProgramIsRejected : 0x8000 < (programOf 0x8001).length ∧ (programOf 0x8000).length = 0x8000 := by
  rw [programOf_length, programOf_length]
  decide
theorem witness_LoadPlacesProgramAndVector :
    0x8000 < (programOf 0x8001).length ∧ (programOf 0x8000).length ≤ 0x8000 ∧ (programOf 0).length ≤ 0x8000 := by
  rw [programOf_length, programOf_length, programOf_length]
  decide
theorem witness_LoadAndRunStartsAtTheProgram :
    0x8000 < (programOf 0x8001).length ∧ (programOf 0x8000).length ≤ 0x8000 := by
  rw [programOf_length, programOf_length]
  decide
/-- One step of two: still Running; two of two: returned; a fault; a refusal. -/
theorem witness_RunNIsAPrefixOfRun :
    (∃ t, hostRun Config.standard 2 (start [0xE8#8, 0x00#8] []) = some t) ∧
      (∃ t, hostRunN Config.standard 1 (start [0xE8#8, 0x00#8] []) = .next t ∧ t.runState = .running) ∧
      (∃ t, hostRunN Config.standard 2 (start [0xE8#8, 0x00#8] []) = .next t ∧ t.runState = .halted) ∧
      (∃ r, hostRunN Config.standard 1 { State.reset with fault := some ⟨0x02#8, 0x8000#16⟩ } = .fault r) ∧
      ∃ r, hostRunN ⟨.refused⟩ 1 (start [0xB1#8] []) = .refused r :=
  ⟨⟨_, rfl⟩, ⟨_, rfl, rfl⟩, ⟨_, rfl, rfl⟩, ⟨_, rfl⟩, _, rfl⟩
/-- The halt is the second step, so that an earlier state is there to be compared. -/
theorem witness_RunEndsWithHaltStep :
    (∃ t, hostRun Config.standard 2 (start [0xE8#8, 0x00#8] []) = some t) ∧
      ∃ v, Host.Core.run core 0 (start [0xE8#8, 0x00#8] []) = .next v := ⟨⟨_, rfl⟩, _, rfl⟩
theorem witness_RunReturnsIffHaltIsFetched :
    State.reset.fault = none ∧ (∃ t, RunReturns Config.standard State.reset t) ∧
      ∃ k u, Host.Core.run core k State.reset = .next u ∧ nextOpcode u = 0x00#8 :=
  ⟨rfl, ⟨_, 1, rfl⟩, 0, _, rfl, rfl⟩

/-- A memory whose first `n` bytes all hold 0xEA. -/
def filled (n : Nat) : Memory := (List.range n).map (fun k => (k, 0xEA#8))

theorem get_of_constant (addrs : List Nat) (v : Byte) (n : Nat) (h : n ∈ addrs) :
    Memory.get (addrs.map (fun k => (k, v))) n = v := by
  induction addrs with
  | nil => simp at h
  | cons k rest ih =>
    by_cases hk : k = n
    · simp [Memory.get, hk]
    · have hr : n ∈ rest := by simpa [Ne.symm hk] using h
      simpa [Memory.get, hk] using ih hr

theorem filled_read (n : Nat) (addr : Word) (h : addr.toNat < n) : (filled n).read addr ≠ 0x00#8 := by
  have := get_of_constant (List.range n) 0xEA#8 addr.toNat (List.mem_range.mpr h)
  rw [filled, Memory.read, this]
  decide

/-- A CORE whose first `n` bytes all hold 0xEA. -/
def filledCore (n : Nat) : State := { State.reset with mem := filled n }

theorem filledCore_read (n : Nat) (h : n = 65536) : ∀ addr : Word, (filledCore n).mem.read addr ≠ 0x00#8 :=
  fun addr => filled_read n addr (h ▸ addr.isLt)

theorem witness_RunWithoutZeroByteDiverges : ∀ addr : Word, (filledCore 65536).mem.read addr ≠ 0x00#8 :=
  filledCore_read 65536 rfl
theorem witness_RefusedModesRefuseOnlySevenOpcodes :
    (start [0xB1#8] []).fault = none ∧
      nextOpcode (start [0xB1#8] []) ∈ [0xA5#8, 0xB5#8, 0xAD#8, 0xBD#8, 0xB9#8, 0xA1#8, 0xB1#8] ∧
      nextOpcode (start [0xA9#8] []) ∉ [0xA5#8, 0xB5#8, 0xAD#8, 0xBD#8, 0xB9#8, 0xA1#8, 0xB1#8] := by decide

end Sys2Proof.Tests
end

section
/-! PROOFS. The kinds of instruction, LDA and the four others, and what an LDA in any mode does to a state, with the byte it
finds (spec/42_load_transfer_increment.md R80 to R90; spec/41_dispatch.md R74, R75). -/

namespace Sys2Proof.Machine

open Sys2Proof.Safety

/-- An instruction is an LDA or one of the other four kinds (R50, R53). -/
theorem instr_kinds (i : Instr) :
    IsLda i ∨ i = .tax ∨ i = .inx ∨ i = .halt ∨ ∃ op, i = .nopUnmapped op := by
  cases i <;> simp [IsLda]

/-- The byte an LDA finds (R80 to R88), from X, Y and memory alone; no other instruction has one. -/
def ldaOperand (x y : Byte) (m : Memory) : Instr → Option Byte
  | .ldaImm b1 => some b1
  | .ldaZp b1 => some (m.read (eaZeroPage b1))
  | .ldaZpX b1 => some (m.read (eaZeroPageIndexed b1 x))
  | .ldaAbs addr => some (m.read addr)
  | .ldaAbsX addr => some (m.read (eaAbsoluteIndexed addr x))
  | .ldaAbsY addr => some (m.read (eaAbsoluteIndexed addr y))
  | .ldaIndX b1 => some (m.read (eaIndirectX m b1 x))
  | .ldaIndY b1 => some (m.read (eaIndirectY m b1 y))
  | .halt | .nopUnmapped _ | .tax | .inx => none

/-- Every LDA loads A with the byte it finds and passes its own bytes (R72, R80). -/
theorem exec_lda {i : Instr} (hi : IsLda i) (s : State) :
    ∃ v, ldaOperand s.x s.y s.mem i = some v ∧
      exec i s = .next (State.advance (loadA s v) (encode i).length) := by
  obtain ⟨b, rfl⟩ | ⟨b, rfl⟩ | ⟨b, rfl⟩ | ⟨w, rfl⟩ | ⟨w, rfl⟩ | ⟨w, rfl⟩ | ⟨b, rfl⟩ | ⟨b, rfl⟩ := hi
  all_goals exact ⟨_, rfl, rfl⟩

/-- The old A is lost in a load of A. -/
@[simp] theorem loadA_withA (s : State) (q v : Byte) : loadA (State.withA s q) v = loadA s v := rfl

end Sys2Proof.Machine
end

section
/-! PROOFS. Who writes A and who reads it (spec/10_state.md R16). -/

namespace Sys2Proof.Machine

open Sys2Proof.Safety

variable {i : Instr} {s t : State}

/-- An LDA does not read A: the byte it finds does not depend on it, and the load overwrites it. -/
theorem exec_lda_withA (hi : IsLda i) (s : State) (q : Byte) : exec i (State.withA s q) = exec i s := by
  obtain ⟨v, hv, hexec⟩ := exec_lda hi s
  obtain ⟨v', hv', hexec'⟩ := exec_lda hi (State.withA s q)
  have hsame : v' = v := by simpa [hv] using hv'.symm
  rw [hexec, hexec', hsame, loadA_withA]

theorem exec_a_of_not_lda (hi : ¬ IsLda i) (h : exec i s = .next t) : t.a = s.a := by
  obtain hl | rfl | rfl | rfl | ⟨op, rfl⟩ := instr_kinds i
  · exact absurd hl hi
  all_goals cases h; rfl

/-- INX, HALT and NOP_UNMAPPED carry A along. -/
theorem exec_withA_of_not_lda_of_not_tax (hi : ¬ IsLda i) (htax : i ≠ .tax) (h : exec i s = .next t) (q : Byte) :
    exec i (State.withA s q) = .next (State.withA t q) := by
  obtain hl | rfl | rfl | rfl | ⟨op, rfl⟩ := instr_kinds i
  · exact absurd hl hi
  · exact absurd rfl htax
  all_goals cases h; rfl

/-- What any instruction but TAX does from another A: the same, but for A. -/
theorem exec_withA_of_not_tax (htax : i ≠ .tax) (h : exec i s = .next t) (q : Byte) :
    ∃ q', exec i (State.withA s q) = .next (State.withA t q') := by
  by_cases hi : IsLda i
  · exact ⟨t.a, (exec_lda_withA hi s q).trans h⟩
  · exact ⟨q, exec_withA_of_not_lda_of_not_tax hi htax h q⟩

theorem exec_tax_x (h : exec .tax s = .next t) : t.x = s.a := by
  cases h
  rfl

/-- Settles O13: R16, one lemma per clause. -/
theorem accumulatorIsWrittenByLdaAndReadByTax : Obligations.AccumulatorIsWrittenByLdaAndReadByTax := by
  intro i s t h
  refine ⟨fun hi q => ?_, fun hi => exec_a_of_not_lda hi h, ?_, fun htax => exec_withA_of_not_tax htax h⟩
  · exact (exec_lda_withA hi s q).trans h
  · rintro rfl
    exact exec_tax_x h

end Sys2Proof.Machine
end

section
/-! PROOFS. Who writes P, and from which result (spec/10_state.md R23). -/

namespace Sys2Proof.Machine

open Sys2Proof.Safety

variable {i : Instr} {s t : State}

theorem flagUpdate_getLsbD (p r : Byte) (n : Nat) :
    (flagUpdate p r).getLsbD n =
      if n = 7 then r.getLsbD 7 else if n = 1 then r == 0x00#8 else p.getLsbD n := by
  rw [flagUpdate, setBit_getLsbD _ _ _ _ (by decide), setBit_getLsbD _ _ _ _ (by decide)]
  rfl

/-- The flag update recomputes Z and N from its result and keeps every other bit (R22, R23). -/
theorem flagsFrom_flagUpdate (r p : Byte) : FlagsFrom r p (flagUpdate p r) := by
  refine ⟨?_, ?_, fun n hz hn => ?_⟩
  · rw [flagUpdate_getLsbD, if_neg (by decide), if_pos rfl, beq_eq_decide]
  · rw [flagUpdate_getLsbD, if_pos rfl]
  · rw [flagUpdate_getLsbD, if_neg hn, if_neg hz]

theorem exec_lda_flags (hi : IsLda i) (h : exec i s = .next t) : FlagsFrom t.a s.p t.p := by
  obtain ⟨v, -, hexec⟩ := exec_lda hi s
  cases hexec.symm.trans h
  exact flagsFrom_flagUpdate v s.p

theorem exec_tax_or_inx_flags (hi : i = .tax ∨ i = .inx) (h : exec i s = .next t) :
    FlagsFrom t.x s.p t.p := by
  obtain rfl | rfl := hi
  all_goals
    cases h
    exact flagsFrom_flagUpdate _ s.p

theorem exec_p_of_no_load (hi : ¬ IsLda i) (htax : i ≠ .tax) (hinx : i ≠ .inx) (h : exec i s = .next t) :
    t.p = s.p := by
  obtain hl | rfl | rfl | rfl | ⟨op, rfl⟩ := instr_kinds i
  · exact absurd hl hi
  · exact absurd rfl htax
  · exact absurd rfl hinx
  all_goals cases h; rfl

/-- Settles O15: the flag update bit by bit, and the result each kind of instruction calls it with. -/
theorem flagUpdateIsTheOnlyWriterOfP : Obligations.FlagUpdateIsTheOnlyWriterOfP :=
  ⟨fun s r => ⟨flagsFrom_flagUpdate r s.p, rfl⟩, fun _ _ _ h =>
    ⟨fun hi => exec_lda_flags hi h, fun hi => exec_tax_or_inx_flags hi h,
      fun hi htax hinx => exec_p_of_no_load hi htax hinx h⟩⟩

end Sys2Proof.Machine
end

section
/-! PROOFS. Reads after a byte write, and that no step stores (spec/20_memory.md R30, R32). -/

namespace Sys2Proof.Machine

/-- Two addresses are one word exactly when they are one number, so the law of `Memory.set` is the law of a byte write. -/
@[simp] theorem Memory.read_write (m : Memory) (addr other : Word) (v : Byte) :
    (m.write addr v).read other = if other = addr then v else m.read other := by
  simp only [Memory.read, Memory.write, Memory.get_set, BitVec.toNat_inj]

/-- Every instruction leaves memory as a list as it was: none of its effects reaches the memory field. -/
theorem exec_mem {i : Instr} {s t : State} (h : exec i s = .next t) : t.mem = s.mem := by
  obtain ⟨r, hr, hexec⟩ := exec_shape i s
  cases hexec.symm.trans h
  obtain rfl | rfl | ⟨v, rfl⟩ | ⟨v, rfl⟩ := hr
  all_goals rfl

theorem stepWith_mem {c : Config} {s t : State} (h : stepWith c s = .next t) : t.mem = s.mem := by
  obtain ⟨-, i, rest, -, hexec⟩ := step_next_inv c s t h
  exact (exec_mem hexec).trans (State.withRunState_mem s .running)

/-- Settles O42: the law of a byte write, and memory as a field no step replaces. -/
theorem byteWriteChangesOneByte : Obligations.ByteWriteChangesOneByte := by
  refine ⟨fun s addr other v => ⟨Memory.read_write s.mem addr other v, rfl⟩, fun s t h addr => ?_⟩
  rw [stepWith_mem h]

end Sys2Proof.Machine
end

section
/-! PROOFS. A two-byte read as bytes and as a number (spec/00_scope.md R8; spec/20_memory.md R33). -/

namespace Sys2Proof.Machine

/-- The two bytes of a word do not overlap, so `{hi, lo}` is a sum. -/
theorem joinBytes_toNat (hi lo : Byte) : (joinBytes hi lo).toNat = hi.toNat * 256 + lo.toNat := by
  rw [joinBytes, BitVec.toNat_append, ← Nat.shiftLeft_add_eq_or_of_lt lo.isLt, Nat.shiftLeft_eq]

theorem Memory.read16_eq_append (m : Memory) (addr : Word) :
    m.read16 addr = m.read (addr + 1#16) ++ m.read addr := rfl

/-- Settles O43: the read joins the two bytes, high byte at the next address. -/
theorem twoByteReadIsLittleEndian : Obligations.TwoByteReadIsLittleEndian :=
  fun m addr => ⟨Memory.read16_eq_append m addr, joinBytes_toNat _ _⟩

end Sys2Proof.Machine
end

section
/-! PROOFS. The zero-page modes of the resolver, and that their addresses stay in page 0 (spec/40_addressing_modes.md R61, R62). -/

namespace Sys2Proof.Machine

/-- A zero-extended byte is an address in page 0, whatever sum the byte came from. -/
theorem zext16_toNat_lt (b : Byte) : (zext16 b).toNat < 0x100 := by
  rw [zext16, BitVec.toNat_setWidth_of_le (by decide)]
  exact b.isLt

section

variable (pc : Word) (x y : Byte) (m : Memory)

@[simp] theorem resolve_zeroPage :
    resolve .zeroPage pc x y m = some (.addr (zext16 (m.read pc))) := rfl

@[simp] theorem resolve_zeroPageX :
    resolve .zeroPageX pc x y m = some (.addr (zext16 (m.read pc + x))) := rfl

end

theorem resolve_zeroPage_or_zeroPageX_address_lt {mode : Mode} {pc : Word} {x y : Byte} {m : Memory} {ea : EA}
    (hmode : mode = .zeroPage ∨ mode = .zeroPageX) (h : resolve mode pc x y m = some ea) :
    ea.address.toNat < 0x100 := by
  obtain rfl | rfl := hmode
  · cases (resolve_zeroPage pc x y m).symm.trans h
    exact zext16_toNat_lt (m.read pc)
  · cases (resolve_zeroPageX pc x y m).symm.trans h
    exact zext16_toNat_lt (m.read pc + x)

/-- Settles O39: both answers are zero-extended bytes, hence in page 0. -/
theorem resolverZeroPageModes : Obligations.ResolverZeroPageModes :=
  fun pc x y m => ⟨resolve_zeroPage pc x y m, resolve_zeroPageX pc x y m, rfl, rfl,
    fun _ _ => resolve_zeroPage_or_zeroPageX_address_lt⟩

end Sys2Proof.Machine
end

section
/-! PROOFS. The indexed absolute modes and the two indirect modes of the resolver (spec/40_addressing_modes.md R65 to R68, R70). -/

namespace Sys2Proof.Machine

section

variable (pc : Word) (x y : Byte) (m : Memory)

theorem zeroPagePointer_eq_append (p : Byte) :
    zeroPagePointer m p = m.read ((p + 1#8).setWidth 16) ++ m.read (p.setWidth 16) := rfl

/-- The last pointer of page 0 takes its high byte from the first byte of the page, not from 0x0100 (R70). -/
theorem zeroPagePointer_last : zeroPagePointer m 0xFF#8 = m.read 0x0000#16 ++ m.read 0x00FF#16 := rfl

@[simp] theorem resolve_absoluteX :
    resolve .absoluteX pc x y m = some (.addr (m.read16 pc + zext16 x)) := rfl

@[simp] theorem resolve_absoluteY :
    resolve .absoluteY pc x y m = some (.addr (m.read16 pc + zext16 y)) := rfl

@[simp] theorem resolve_indirectX :
    resolve .indirectX pc x y m = some (.addr (zeroPagePointer m (m.read pc + x))) := rfl

@[simp] theorem resolve_indirectY :
    resolve .indirectY pc x y m = some (.addr (zeroPagePointer m (m.read pc) + zext16 y)) := rfl

theorem resolve_indirectX_last (h : m.read pc + x = 0xFF#8) :
    resolve .indirectX pc x y m = some (.addr (m.read 0x0000#16 ++ m.read 0x00FF#16)) := by
  rw [resolve_indirectX, h, zeroPagePointer_last]

theorem resolve_indirectY_last (h : m.read pc = 0xFF#8) :
    resolve .indirectY pc x y m = some (.addr ((m.read 0x0000#16 ++ m.read 0x00FF#16) + zext16 y)) := by
  rw [resolve_indirectY, h, zeroPagePointer_last]

end

/-- Settles O40: each answer with its operand or its pointer written out in bytes, and the pointer at 0xFF. -/
theorem resolverIndexedAndIndirectModes : Obligations.ResolverIndexedAndIndirectModes := by
  intro pc x y m
  refine ⟨?_, ?_, ?_, ?_, resolve_indirectX_last pc x y m, resolve_indirectY_last pc x y m, rfl, rfl, rfl, rfl⟩
  · rw [resolve_absoluteX, Memory.read16_eq_append, zext16]
  · rw [resolve_absoluteY, Memory.read16_eq_append, zext16]
  · rw [resolve_indirectX, zeroPagePointer_eq_append]
  · rw [resolve_indirectY, zeroPagePointer_eq_append, zext16]

end Sys2Proof.Machine
end

section
/-! PROOFS. A step whose opcode byte is known is the decoded instruction (spec/41_dispatch.md R71, R77). -/

namespace Sys2Proof.Machine

/-- The fetch reads the opcode byte, then as many operand bytes as its mode asks for (R48, R55). -/
theorem fetchBytes_eq_cons {m : Memory} {pc : Word} {op : Byte} (hop : m.read pc = op) :
    fetchBytes m pc = op :: m.readBytes (pc + 1#16) (entryOf op).mode.width := by
  rw [fetchBytes, hop, instrLength, Nat.add_comm, Memory.readBytes, hop]

theorem step_eq_exec_of_decode {s : State} {op : Byte} {i : Instr} {rest : List Byte} (hf : s.fault = none)
    (hop : s.mem.read s.pc = op)
    (hd : decode (op :: s.mem.readBytes (s.pc + 1#16) (entryOf op).mode.width) = .ok (i, rest)) :
    step s = exec i (State.withRunState s .running) := by
  have hfetch : decodeWith Config.standard (fetchBytes s.mem s.pc) = .ok (i, rest) := by
    rw [fetchBytes_eq_cons hop]
    exact hd
  simp only [step, stepWith, hf, cycle, State.withRunState_mem, State.withRunState_pc, hfetch]

end Sys2Proof.Machine
end

section
/-! PROOFS. LDA in each of its modes, by its meaning and as a step (spec/42_load_transfer_increment.md R80 to R88). -/

namespace Sys2Proof.Machine

open Sys2Proof.Safety

variable {s t : State} {i : Instr} {v : Byte}

theorem loadsA_advance_loadA (s : State) (v : Byte) (n : Nat) : LoadsA s (State.advance (loadA s v) n) v n :=
  ⟨rfl, flagsFrom_flagUpdate v s.p, rfl, rfl, rfl, rfl, fun _ => rfl⟩

/-- `LoadsA` leaves the run state open, so a step may set Running before it loads (R77). -/
theorem loadsA_withRunState {r : RunState} {n : Nat} : LoadsA (State.withRunState s r) t v n ↔ LoadsA s t v n :=
  Iff.rfl

theorem isLda_of_ldaOperand {x y : Byte} {m : Memory} (hv : ldaOperand x y m i = some v) : IsLda i := by
  obtain hl | rfl | rfl | rfl | ⟨op, rfl⟩ := instr_kinds i
  · exact hl
  all_goals exact absurd hv (by simp [ldaOperand])

/-- The whole effect of an LDA, from the byte it finds (R80). -/
theorem exec_loadsA (hv : ldaOperand s.x s.y s.mem i = some v) :
    ∃ t, exec i s = .next t ∧ LoadsA s t v (encode i).length ∧ t.runState = s.runState := by
  obtain ⟨v', hv', hexec⟩ := exec_lda (isLda_of_ldaOperand hv) s
  obtain rfl : v' = v := Option.some.inj (hv'.symm.trans hv)
  exact ⟨_, hexec, loadsA_advance_loadA s v' _, rfl⟩

/-- A step at an opcode byte that decodes to an LDA loads the byte that LDA finds: Running is none of what it reads. -/
theorem step_loadsA {op : Byte} {rest : List Byte} (hf : s.fault = none) (hop : s.mem.read s.pc = op)
    (hd : decode (op :: s.mem.readBytes (s.pc + 1#16) (entryOf op).mode.width) = .ok (i, rest))
    (hv : ldaOperand s.x s.y s.mem i = some v) :
    ∃ t, step s = .next t ∧ LoadsA s t v (encode i).length := by
  obtain ⟨t, hexec, hloads, -⟩ := exec_loadsA (s := State.withRunState s .running) hv
  exact ⟨t, (step_eq_exec_of_decode hf hop hd).trans hexec, loadsA_withRunState.mp hloads⟩

/-- Settles O21: in each mode the byte found is, by definition, the one the statement writes out. -/
theorem ldaFormsComplete : Obligations.LdaFormsComplete := by
  intro s b w
  refine ⟨?imm, ?zp, ?zpX, ?abs, ?absX, ?absY, ?indX, ?indY⟩
  case imm => exact exec_loadsA (i := .ldaImm b) rfl
  case zp => exact exec_loadsA (i := .ldaZp b) rfl
  case zpX => exact exec_loadsA (i := .ldaZpX b) rfl
  case abs => exact exec_loadsA (i := .ldaAbs w) rfl
  case absX => exact exec_loadsA (i := .ldaAbsX w) rfl
  case absY => exact exec_loadsA (i := .ldaAbsY w) rfl
  case indX => exact exec_loadsA (i := .ldaIndX b) rfl
  case indY => exact exec_loadsA (i := .ldaIndY b) rfl

/-- Settles O23: 0xA9 decodes to LDA #imm with the byte after it, which is the byte the LDA finds. -/
theorem ldaImmediateStep : Obligations.LdaImmediateStep :=
  fun s hf hop => step_loadsA (i := .ldaImm (s.mem.read (s.pc + 1#16))) hf hop rfl rfl

end Sys2Proof.Machine
end

section
/-! PROOFS. TAX and INX as steps (spec/42_load_transfer_increment.md R89, R90). -/

namespace Sys2Proof.Machine

open Sys2Proof.Safety

theorem exec_tax (s : State) : exec .tax s = .next (State.advance (loadX s s.a) 1) := rfl

theorem exec_inx (s : State) : exec .inx s = .next (State.advance (loadX s (s.x + 1#8)) 1) := rfl

theorem loadsX_advance_loadX (s : State) (v : Byte) : LoadsX s (State.advance (loadX s v) 1) v :=
  ⟨rfl, flagsFrom_flagUpdate v s.p, rfl, rfl, rfl, rfl, fun _ => rfl⟩

/-- `LoadsX` leaves the run state open, so a step may set Running before it loads (R77). -/
theorem loadsX_withRunState {s t : State} {r : RunState} {v : Byte} :
    LoadsX (State.withRunState s r) t v ↔ LoadsX s t v := Iff.rfl

/-- A step that decodes to an instruction which puts `v` in X has the whole effect of such a load. -/
theorem step_loadsX {s : State} {op v : Byte} {i : Instr} {rest : List Byte} (hf : s.fault = none)
    (hop : s.mem.read s.pc = op)
    (hd : decode (op :: s.mem.readBytes (s.pc + 1#16) (entryOf op).mode.width) = .ok (i, rest))
    (hexec : exec i (State.withRunState s .running) = .next (State.advance (loadX (State.withRunState s .running) v) 1)) :
    ∃ t, step s = .next t ∧ LoadsX s t v :=
  ⟨_, (step_eq_exec_of_decode hf hop hd).trans hexec, loadsX_withRunState.mp (loadsX_advance_loadX _ v)⟩

/-- Settles O33: 0xAA decodes to TAX, which loads X with A. -/
theorem taxStep : Obligations.TaxStep :=
  fun _ hf hop => step_loadsX hf hop rfl (exec_tax _)

/-- Settles O34: 0xE8 decodes to INX, and a sum of bytes is taken modulo 256. -/
theorem inxStep : Obligations.InxStep := by
  intro s hf hop
  obtain ⟨t, hstep, hloads⟩ := step_loadsX hf hop rfl (exec_inx _)
  have hx : t.x = s.x + 1#8 := hloads.1
  refine ⟨t, hstep, hloads, ?_⟩
  rw [hx]
  exact BitVec.toNat_add s.x 1#8

end Sys2Proof.Machine
end

section
/-! PROOFS. The decoder, opcode byte by opcode byte, and its agreement with the encoder (spec/30_encoding.md R47 to R56). -/

namespace Sys2Proof

/-- Settles O4: the rows of R50, each by its own computation. -/
theorem mappedOpcodesDecode : Obligations.MappedOpcodesDecode :=
  fun _ _ _ _ => ⟨rfl, rfl, rfl, rfl, rfl, rfl, rfl, rfl, rfl, rfl, rfl⟩

theorem decode_unmapped {op : Byte} (hop : mappedOpcodes.contains op = false) (rest : List Byte) :
    decode (op :: rest) = .ok (.nopUnmapped op, rest) := by
  simp only [decode, decodeWith, entryOf_unmapped op hop]

theorem wf_nopUnmapped (op : Byte) :
    (Instr.nopUnmapped op).wf = true ↔ mappedOpcodes.contains op = false := by
  simp [Instr.wf]

/-- The operand of the three absolute forms is joined from the two bytes its encoding takes it apart into (R49). -/
theorem decode_encode_word {f : Word → Instr} {op : Byte} (w : Word) (rest : List Byte)
    (hf : ∀ lo hi, decode (op :: lo :: hi :: rest) = .ok (f (joinBytes hi lo), rest)) :
    decode (op :: lowByte w :: highByte w :: rest) = .ok (f w, rest) := by
  rw [hf, joinBytes_high_low]

/-- Decoding an encoded instruction gives it back: a NOP_UNMAPPED carries an unmapped byte, and every other row is R50's. -/
theorem decode_encode {i : Instr} (hi : i.wf = true) (rest : List Byte) :
    decode (encode i ++ rest) = .ok (i, rest) := by
  cases i with
  | nopUnmapped op => exact decode_unmapped ((wf_nopUnmapped op).mp hi) rest
  | ldaAbs w => exact decode_encode_word w rest fun _ _ => rfl
  | ldaAbsX w => exact decode_encode_word w rest fun _ _ => rfl
  | ldaAbsY w => exact decode_encode_word w rest fun _ _ => rfl
  | halt | ldaIndX | ldaZp | ldaImm | tax | ldaIndY | ldaZpX | inx => rfl

/-- Settles O1: the round trip, one instruction at a time. -/
theorem decodeOfEncodeIsIdentity : Obligations.DecodeOfEncodeIsIdentity :=
  fun _ rest hi => decode_encode hi rest

/-- An opcode byte with as many operand bytes as its mode asks for is the encoding of an instruction, and decodes to it whatever
follows: the table of R50 and R53, row by row. -/
theorem decode_operands (op : Byte) {operands : List Byte} (h : operands.length = (entryOf op).mode.width) :
    ∃ i, i.wf = true ∧ encode i = op :: operands ∧ ∀ tail, decode (op :: (operands ++ tail)) = .ok (i, tail) := by
  have hword (op lo hi : Byte) :
      [op, lowByte (joinBytes hi lo), highByte (joinBytes hi lo)] = [op, lo, hi] := by
    rw [lowByte_joinBytes, highByte_joinBytes]
  obtain ⟨rfl, -⟩ | ⟨rfl, -⟩ | ⟨rfl, -⟩ | ⟨rfl, -⟩ | ⟨rfl, -⟩ | ⟨rfl, -⟩ | ⟨rfl, -⟩ | ⟨rfl, -⟩ | ⟨rfl, -⟩ |
    ⟨rfl, -⟩ | ⟨rfl, -⟩ | ⟨hop, hentry⟩ := entryOf_cases op
  · obtain rfl := List.length_eq_zero_iff.mp h
    exact ⟨.halt, rfl, rfl, fun _ => rfl⟩
  · obtain ⟨b, rfl⟩ := List.length_eq_one_iff.mp h
    exact ⟨.ldaIndX b, rfl, rfl, fun _ => rfl⟩
  · obtain ⟨b, rfl⟩ := List.length_eq_one_iff.mp h
    exact ⟨.ldaZp b, rfl, rfl, fun _ => rfl⟩
  · obtain ⟨b, rfl⟩ := List.length_eq_one_iff.mp h
    exact ⟨.ldaImm b, rfl, rfl, fun _ => rfl⟩
  · obtain rfl := List.length_eq_zero_iff.mp h
    exact ⟨.tax, rfl, rfl, fun _ => rfl⟩
  · obtain ⟨lo, hi, rfl⟩ := List.length_eq_two.mp h
    exact ⟨.ldaAbs (joinBytes hi lo), rfl, hword _ lo hi, fun _ => rfl⟩
  · obtain ⟨b, rfl⟩ := List.length_eq_one_iff.mp h
    exact ⟨.ldaIndY b, rfl, rfl, fun _ => rfl⟩
  · obtain ⟨b, rfl⟩ := List.length_eq_one_iff.mp h
    exact ⟨.ldaZpX b, rfl, rfl, fun _ => rfl⟩
  · obtain ⟨lo, hi, rfl⟩ := List.length_eq_two.mp h
    exact ⟨.ldaAbsY (joinBytes hi lo), rfl, hword _ lo hi, fun _ => rfl⟩
  · obtain ⟨lo, hi, rfl⟩ := List.length_eq_two.mp h
    exact ⟨.ldaAbsX (joinBytes hi lo), rfl, hword _ lo hi, fun _ => rfl⟩
  · obtain rfl := List.length_eq_zero_iff.mp h
    exact ⟨.inx, rfl, rfl, fun _ => rfl⟩
  · rw [hentry] at h
    obtain rfl := List.length_eq_zero_iff.mp h
    exact ⟨.nopUnmapped op, (wf_nopUnmapped op).mpr hop, rfl, decode_unmapped hop⟩

/-- Only LDA takes operand bytes. -/
theorem width_of_not_lda (op : Byte) : (entryOf op).operation ≠ .lda → (entryOf op).mode.width = 0 := by
  revert op
  decide

theorem decode_of_lda {op : Byte} (hop : (entryOf op).operation = .lda) (tail : List Byte) :
    decode (op :: tail) = decodeLda (entryOf op).mode tail := by
  simp [decode, decodeWith, hop, Config.standard]

theorem width_le_of_decodeLda {mode : Mode} {tail : List Byte} {r : Instr × List Byte}
    (h : decodeLda mode tail = .ok r) : mode.width ≤ tail.length := by
  unfold decodeLda at h
  split at h
  all_goals simp [Mode.width] at h ⊢

/-- Bytes that decode hold all the operand bytes the opcode asks for (R48). -/
theorem width_le_of_decode {op : Byte} {tail : List Byte} {r : Instr × List Byte} (h : decode (op :: tail) = .ok r) :
    (entryOf op).mode.width ≤ tail.length := by
  by_cases hop : (entryOf op).operation = .lda
  · exact width_le_of_decodeLda ((decode_of_lda hop tail).symm.trans h)
  · rw [width_of_not_lda op hop]
    exact Nat.zero_le _

/-- The converse of `decode_encode`: the operand bytes are the first ones after the opcode, and the rest is the rest. -/
theorem encode_of_decode {bytes : List Byte} {i : Instr} {rest : List Byte} (h : decode bytes = .ok (i, rest)) :
    i.wf = true ∧ bytes = encode i ++ rest := by
  cases bytes with
  | nil => cases h
  | cons op tail =>
    obtain ⟨i', hwf, henc, hdec⟩ := decode_operands op (List.length_take_of_le (width_le_of_decode h))
    have hsplit := List.take_append_drop (entryOf op).mode.width tail
    have hsame := hdec (tail.drop (entryOf op).mode.width)
    rw [hsplit, h] at hsame
    cases hsame
    exact ⟨hwf, by rw [henc, List.cons_append, hsplit]⟩

/-- Settles O2: the operand bytes are those the encoder writes back. -/
theorem decodedBytesAreTheEncoding : Obligations.DecodedBytesAreTheEncoding :=
  fun _ _ _ h => encode_of_decode h

theorem Mode.width_le_two (mode : Mode) : mode.width ≤ 2 := by
  cases mode <;> decide

/-- Settles O3: two bytes are as many as any mode asks for. -/
theorem everyOpcodeByteDecodes : Obligations.EveryOpcodeByteDecodes := by
  intro op b1 b2
  have hwidth : (entryOf op).mode.width ≤ [b1, b2].length := Mode.width_le_two _
  obtain ⟨i, hwf, -, hdec⟩ := decode_operands op (List.length_take_of_le hwidth)
  refine ⟨i, [b1, b2].drop (entryOf op).mode.width, ?_, hwf⟩
  rw [← hdec, List.take_append_drop]

/-- Settles O5: the entry of an unmapped byte, and the count by running through the 256 bytes. -/
theorem unmappedOpcodesAreOneByteNops : Obligations.UnmappedOpcodesAreOneByteNops := by
  refine ⟨fun op rest hop => ?_, by decide +kernel⟩
  have hop' : mappedOpcodes.contains op = false := by simpa [mappedOpcodes] using hop
  refine ⟨decode_unmapped hop' rest, ?_⟩
  simp [instrLength, entryOf_unmapped op hop', Mode.width]

/-- Settles O6: seven fixed words, each by its computation. -/
theorem exampleWordsDecode : Obligations.ExampleWordsDecode :=
  ⟨rfl, rfl, rfl, rfl, rfl, rfl, rfl⟩

end Sys2Proof
end

section
/-! PROOFS. What every instruction keeps, whatever it does besides: Y, the fault record and the storage bits of P (spec/10_state.md sections 2 and 4). -/

namespace Sys2Proof.Machine

variable {i : Instr} {s t : State}

/-- The four effects of an instruction agree on Y, on the fault record and on PC, which moves past the instruction's bytes (R72). -/
theorem exec_y_fault_pc (h : exec i s = .next t) :
    t.y = s.y ∧ t.fault = s.fault ∧ t.pc = s.pc + BitVec.ofNat 16 (encode i).length := by
  obtain ⟨r, hr, hexec⟩ := exec_shape i s
  cases hexec.symm.trans h
  obtain rfl | rfl | ⟨v, rfl⟩ | ⟨v, rfl⟩ := hr
  all_goals exact ⟨rfl, rfl, rfl⟩

theorem exec_y (h : exec i s = .next t) : t.y = s.y :=
  let ⟨hy, _, _⟩ := exec_y_fault_pc h
  hy

theorem exec_fault (h : exec i s = .next t) : t.fault = s.fault :=
  let ⟨_, hf, _⟩ := exec_y_fault_pc h
  hf

theorem exec_pc (h : exec i s = .next t) : t.pc = s.pc + BitVec.ofNat 16 (encode i).length :=
  let ⟨_, _, hpc⟩ := exec_y_fault_pc h
  hpc

/-- The only write of P is the flag update (R23). -/
theorem exec_p_cases (h : exec i s = .next t) : t.p = s.p ∨ ∃ v, t.p = flagUpdate s.p v := by
  obtain ⟨r, hr, hexec⟩ := exec_shape i s
  cases hexec.symm.trans h
  obtain rfl | rfl | ⟨v, rfl⟩ | ⟨v, rfl⟩ := hr
  · exact .inl rfl
  · exact .inl rfl
  · exact .inr ⟨v, rfl⟩
  · exact .inr ⟨v, rfl⟩

theorem flagUpdate_storage_bits (p r : Byte) (n : Nat) (hz : n ≠ 1) (hn : n ≠ 7) :
    (flagUpdate p r).getLsbD n = p.getLsbD n := by
  rw [flagUpdate_getLsbD, if_neg hn, if_neg hz]

theorem exec_storage_bits (h : exec i s = .next t) (n : Nat) (hz : n ≠ 1) (hn : n ≠ 7) :
    t.p.getLsbD n = s.p.getLsbD n := by
  obtain hp | ⟨v, hp⟩ := exec_p_cases h
  · rw [hp]
  · rw [hp, flagUpdate_storage_bits s.p v n hz hn]

/-- Every instruction completes from every state. -/
theorem exec_completes (i : Instr) (s : State) : ∃ t, exec i s = .next t :=
  let ⟨_, _, hexec⟩ := exec_shape i s
  ⟨_, hexec⟩

/-- Only HALT writes the run state (R74). -/
theorem exec_runState (h : exec i s = .next t) : t.runState = if i = .halt then .halted else s.runState := by
  obtain hl | rfl | rfl | rfl | ⟨op, rfl⟩ := instr_kinds i
  · have hne : i ≠ .halt := by
      rintro rfl
      exact Tests.not_lda_halt hl
    obtain ⟨v, -, hexec⟩ := exec_lda hl s
    cases hexec.symm.trans h
    rw [if_neg hne]
    rfl
  all_goals cases h; rfl

theorem exec_x_of_not_tax_of_not_inx (htax : i ≠ .tax) (hinx : i ≠ .inx) (h : exec i s = .next t) : t.x = s.x := by
  obtain hl | rfl | rfl | rfl | ⟨op, rfl⟩ := instr_kinds i
  · obtain ⟨v, -, hexec⟩ := exec_lda hl s
    cases hexec.symm.trans h
    rfl
  · exact absurd rfl htax
  · exact absurd rfl hinx
  all_goals cases h; rfl

/-- Settles O14: R17 and R18, one lemma per register. -/
theorem indexRegistersAreWrittenByTaxAndInxOnly : Obligations.IndexRegistersAreWrittenByTaxAndInxOnly :=
  fun _ _ _ h => ⟨fun htax hinx => exec_x_of_not_tax_of_not_inx htax hinx h, exec_y h⟩

end Sys2Proof.Machine
end

section
/-! PROOFS. Every fetch decodes, so a CORE without a fault always completes a step (spec/30_encoding.md R55; spec/41_dispatch.md R71, R72). -/

namespace Sys2Proof.Machine

variable {s t : State} {i : Instr} {rest : List Byte}

theorem Memory.readBytes_length (m : Memory) (addr : Word) (n : Nat) : (m.readBytes addr n).length = n := by
  induction n generalizing addr with
  | zero => rfl
  | succ n ih => rw [Memory.readBytes, List.length_cons, ih]

/-- What the fetch reads at any address is exactly the encoding of one instruction. -/
theorem exists_decode_fetchBytes (m : Memory) (pc : Word) :
    ∃ i, decode (fetchBytes m pc) = .ok (i, []) ∧ encode i = fetchBytes m pc := by
  rw [fetchBytes_eq_cons rfl]
  obtain ⟨i, -, henc, hdec⟩ := decode_operands (m.read pc) (Memory.readBytes_length m (pc + 1#16) _)
  exact ⟨i, by simpa using hdec [], henc⟩

theorem step_eq_exec (hf : s.fault = none) (hd : decode (fetchBytes s.mem s.pc) = .ok (i, rest)) :
    step s = exec i (State.withRunState s .running) := by
  rw [fetchBytes_eq_cons rfl] at hd
  exact step_eq_exec_of_decode hf rfl hd

/-- Settles O7: the step adds nothing to the instruction but Running. -/
theorem stepRunsDecodedInstruction : Obligations.StepRunsDecodedInstruction :=
  fun _ _ _ hf hd => step_eq_exec hf hd

/-- A step of a CORE without a fault, once: it executes the instruction whose bytes lie at PC. -/
theorem exists_step_eq_exec (hf : s.fault = none) :
    ∃ i t, encode i = fetchBytes s.mem s.pc ∧ decode (fetchBytes s.mem s.pc) = .ok (i, []) ∧
      exec i (State.withRunState s .running) = .next t ∧ step s = .next t := by
  obtain ⟨i, hd, henc⟩ := exists_decode_fetchBytes s.mem s.pc
  obtain ⟨t, hexec⟩ := exec_completes i (State.withRunState s .running)
  exact ⟨i, t, henc, hd, hexec, (step_eq_exec hf hd).trans hexec⟩

theorem stepWith_fault {c : Config} (h : stepWith c s = .next t) : t.fault = none := by
  obtain ⟨hf, i, rest, -, hexec⟩ := step_next_inv c s t h
  exact (exec_fault hexec).trans hf

theorem step_completes (hf : s.fault = none) : ∃ t, step s = .next t :=
  let ⟨_, t, _, _, _, hstep⟩ := exists_step_eq_exec hf
  ⟨t, hstep⟩

/-- Settles O10: every fetch decodes, and no instruction sets the fault record. -/
theorem unfaultedStepAlwaysCompletes : Obligations.UnfaultedStepAlwaysCompletes := by
  intro s hf
  obtain ⟨t, hstep⟩ := step_completes hf
  exact ⟨t, hstep, stepWith_fault hstep⟩

/-- Settles O12: what instructions keep, a step keeps, because it adds Running only. -/
theorem stepFrame : Obligations.StepFrame := by
  intro s t h
  obtain ⟨-, i, rest, -, hexec⟩ := step_next_inv _ s t h
  exact ⟨(exec_mem hexec :), (exec_y hexec :), (exec_fault hexec :), (exec_storage_bits hexec :)⟩

end Sys2Proof.Machine
end

section
/-! PROOFS. P influences no step (spec/10_state.md section 4). -/

namespace Sys2Proof.Machine

variable {s t : State} {i : Instr}

/-- No instruction reads P but to recompute it: the byte an LDA finds and the byte TAX and INX move do not depend on it. -/
theorem exec_withP (h : exec i s = .next t) (q : Byte) :
    ∃ q', exec i (State.withP s q) = .next (State.withP t q') := by
  obtain hl | rfl | rfl | rfl | ⟨op, rfl⟩ := instr_kinds i
  · obtain ⟨v, hv, hexec⟩ := exec_lda hl s
    obtain ⟨v', hv', hexec'⟩ := exec_lda hl (State.withP s q)
    obtain rfl : v' = v := Option.some.inj (hv'.symm.trans hv)
    cases hexec.symm.trans h
    exact ⟨flagUpdate q v', hexec'⟩
  all_goals cases h
  · exact ⟨flagUpdate q s.a, rfl⟩
  · exact ⟨flagUpdate q (s.x + 1#8), rfl⟩
  · exact ⟨q, rfl⟩
  · exact ⟨q, rfl⟩

/-- Settles O16: the fetch and the fault check do not read P, and the instruction carries it along. -/
theorem statusByteNeverInfluencesExecution : Obligations.StatusByteNeverInfluencesExecution := by
  intro s t q h
  obtain ⟨hf, i, rest, hd, hexec⟩ := step_next_inv _ s t h
  obtain ⟨q', hexec'⟩ := exec_withP hexec q
  exact ⟨q', (step_eq_exec (s := State.withP s q) hf hd).trans hexec'⟩

end Sys2Proof.Machine
end

section
/-! PROOFS. The invariant: every instruction, step and host operation keeps it (spec/10_state.md section 4; spec/20_memory.md section 3). -/

namespace Sys2Proof.Machine

open Sys2Proof.Safety

variable {s t : State} {c : Config}

/-- A result of 0 has bit 7 clear, so the update never sets both Z and N. -/
theorem flagsExclusive_flagUpdate (p r : Byte) : FlagsExclusive (flagUpdate p r) := by
  obtain ⟨hz, hn, -⟩ := flagsFrom_flagUpdate r p
  rw [FlagsExclusive, hz, hn, decide_eq_true_iff]
  rintro ⟨rfl, h⟩
  simp at h

theorem flagsExclusive_zero : FlagsExclusive 0x00#8 := by decide

theorem exec_inv {i : Instr} (hinv : Inv s) (h : exec i s = .next t) : Inv t := by
  obtain ⟨hmem, hp, hf⟩ := hinv
  refine ⟨exec_mem h ▸ hmem, ?_, (exec_fault h).trans hf⟩
  obtain hsame | ⟨v, hupd⟩ := exec_p_cases h
  · rwa [hsame]
  · rw [hupd]
    exact flagsExclusive_flagUpdate s.p v

/-- Running is no part of the invariant, so a step keeps it as its instruction does. -/
theorem stepWith_inv (hinv : Inv s) (h : stepWith c s = .next t) : Inv t := by
  obtain ⟨-, i, rest, -, hexec⟩ := step_next_inv c s t h
  exact exec_inv (s := State.withRunState s .running) hinv hexec

/-- Settles O19: memory is not written, the flag update never sets both Z and N, and no instruction raises the fault. -/
theorem stepKeepsInvariant : Obligations.StepKeepsInvariant :=
  fun _ _ hinv h => stepWith_inv hinv h

/-- Settles O18: an empty memory, P = 0 and no fault record. -/
theorem invariantHoldsAtReset : Obligations.InvariantHoldsAtReset :=
  ⟨reset_memory_wf, flagsExclusive_zero, rfl⟩

/-- Induction along a run that returns: its last step halts, and any other leaves a state whose run returns in the same state. -/
theorem hostRun_induction {motive : Nat → State → Prop} {fuel : Nat}
    (halt : ∀ n s, stepWith c s = .next t → t.runState = .halted → motive (n + 1) s)
    (go : ∀ n s u, stepWith c s = .next u → u.runState ≠ .halted → motive n u → motive (n + 1) s)
    (h : hostRun c fuel s = some t) : motive fuel s := by
  induction fuel generalizing s with
  | zero => cases h
  | succ n ih =>
    obtain ⟨m, u, hm, hstep, hend⟩ := hostRun_inv c (n + 1) s t h
    obtain rfl : n = m := Nat.succ.inj hm
    obtain ⟨hu, rfl⟩ | ⟨hu, hrun⟩ := hend
    · exact halt n s hstep hu
    · exact go n s u hstep hu (ih hrun)

theorem hostRun_inv_of_inv {fuel : Nat} (hinv : Inv s) (h : hostRun c fuel s = some t) : Inv t := by
  refine hostRun_induction (motive := fun _ s => Inv s → Inv t) ?halt ?go h hinv
  case halt => exact fun n s hstep _ hs => stepWith_inv hs hstep
  case go => exact fun n s u hstep _ ih hs => ih (stepWith_inv hs hstep)

/-- A load that succeeds was short enough, and leaves the one state `hostLoad_ok` gives (R109). -/
theorem hostLoad_inv {program : List Byte} (h : hostLoad program s = .ok t) :
    t = { s with
      pc := 0x8000#16
      mem := (s.mem.writeBytes 0x8000#16 program).write16 0xFFFC#16 0x8000#16 } := by
  by_cases hlen : program.length ≤ 0x8000
  · exact Except.ok.inj (h.symm.trans (hostLoad_ok program s hlen))
  · exact absurd (h.symm.trans (hostLoad_tooLarge program s (Nat.lt_of_not_le hlen))) (by simp)

/-- Settles O20: the writes keep memory canonical, reset() clears P, and a run is steps. -/
theorem hostOperationsKeepInvariant : Obligations.HostOperationsKeepInvariant := by
  intro s hinv
  obtain ⟨hmem, hp, hf⟩ := hinv
  refine ⟨fun addr v => ⟨Memory.wf_write s.mem addr v hmem, hp, hf⟩, ⟨hmem, flagsExclusive_zero, hf⟩, ?_,
    fun c fuel t => hostRun_inv_of_inv ⟨hmem, hp, hf⟩⟩
  intro program t h
  cases hostLoad_inv h
  exact ⟨Memory.wf_write16 _ 0xFFFC#16 0x8000#16 (Memory.wf_writeBytes program s.mem 0x8000#16 hmem), hp, hf⟩

end Sys2Proof.Machine
end

section
/-! PROOFS. What LDA, TAX, INX, HALT and NOP_UNMAPPED leave unchanged, by their meanings (spec/42_load_transfer_increment.md R80, R89, R90, R92; spec/41_dispatch.md R74, R75). -/

namespace Sys2Proof.Machine

open Sys2Proof.Safety

/-- Settles O22: the one effect of every LDA, field by field. -/
theorem ldaFrame : Obligations.LdaFrame := by
  intro i s t hi h
  obtain ⟨v, -, hexec⟩ := exec_lda hi s
  cases hexec.symm.trans h
  exact ⟨rfl, rfl, rfl, rfl, flagUpdate_storage_bits s.p v, fun _ => rfl⟩

/-- Settles O31: both load X, with A and with the sum. -/
theorem taxAndInxComplete : Obligations.TaxAndInxComplete :=
  fun s => ⟨⟨_, exec_tax s, loadsX_advance_loadX s s.a, rfl⟩, ⟨_, exec_inx s, loadsX_advance_loadX s (s.x + 1#8), rfl⟩⟩

/-- Settles O32: a load of X, field by field. -/
theorem taxAndInxFrame : Obligations.TaxAndInxFrame := by
  rintro i s t (rfl | rfl) h
  · cases (exec_tax s).symm.trans h
    exact ⟨rfl, rfl, rfl, rfl, flagUpdate_storage_bits s.p s.a, fun _ => rfl⟩
  · cases (exec_inx s).symm.trans h
    exact ⟨rfl, rfl, rfl, rfl, flagUpdate_storage_bits s.p (s.x + 1#8), fun _ => rfl⟩

theorem exec_halt (s : State) : exec .halt s = .next (State.advance (State.withRunState s .halted) 1) := rfl

theorem exec_nopUnmapped (op : Byte) (s : State) : exec (.nopUnmapped op) s = .next (State.advance s 1) := rfl

/-- Passing one byte is all that remains of HALT and NOP_UNMAPPED when the run state is left open. -/
theorem onlyPassesOneByte_advance (s : State) (r : RunState) :
    OnlyPassesOneByte s (State.advance (State.withRunState s r) 1) :=
  ⟨rfl, rfl, rfl, rfl, rfl, rfl, fun _ => rfl⟩

/-- Settles O35: the two meanings, written out. -/
theorem haltAndNopComplete : Obligations.HaltAndNopComplete :=
  fun s => ⟨⟨_, exec_halt s, onlyPassesOneByte_advance s .halted, rfl⟩,
    fun op => ⟨_, exec_nopUnmapped op s, onlyPassesOneByte_advance s s.runState, rfl⟩⟩

/-- Settles O36: every field but PC and, for HALT, the run state. -/
theorem haltAndNopFrame : Obligations.HaltAndNopFrame := by
  rintro i s t (rfl | ⟨op, rfl⟩) h
  · cases (exec_halt s).symm.trans h
    exact ⟨rfl, rfl, rfl, rfl, rfl, fun hne => absurd rfl hne, fun _ => rfl⟩
  · cases (exec_nopUnmapped op s).symm.trans h
    exact ⟨rfl, rfl, rfl, rfl, rfl, fun _ => rfl, fun _ => rfl⟩

/-- Settles O37: 0x00 decodes to HALT, which overwrites the Running that the step set. -/
theorem haltStep : Obligations.HaltStep :=
  fun s hf hop => ⟨_, (step_eq_exec_of_decode hf hop rfl).trans (exec_halt _), rfl, onlyPassesOneByte_advance s .halted⟩

/-- Settles O38: the byte decodes to NOP_UNMAPPED, which leaves the Running that the step set. -/
theorem unmappedOpcodeStep : Obligations.UnmappedOpcodeStep := by
  intro s hf hop
  have hop' : mappedOpcodes.contains (s.mem.read s.pc) = false := by simpa [mappedOpcodes] using hop
  have hstep := (step_eq_exec_of_decode hf rfl (decode_unmapped hop' _)).trans (exec_nopUnmapped _ _)
  exact ⟨_, hstep, rfl, onlyPassesOneByte_advance s .running⟩

end Sys2Proof.Machine
end

section
/-! PROOFS. The seven LDA opcodes of decision D2 as steps: the decoder gives the operand, and `step_loadsA` the effect (spec/40_addressing_modes.md R61 to R68; spec/42_load_transfer_increment.md R80). -/

namespace Sys2Proof.Machine

variable {s : State}

/-- Settles O24: the operand byte is the zero-page address. -/
theorem ldaZeroPageStep : Obligations.LdaZeroPageStep :=
  fun s hf hop => step_loadsA (i := .ldaZp (s.mem.read (s.pc + 1#16))) hf hop rfl rfl

/-- Settles O25: X is added to the operand byte. -/
theorem ldaZeroPageXStep : Obligations.LdaZeroPageXStep :=
  fun s hf hop => step_loadsA (i := .ldaZpX (s.mem.read (s.pc + 1#16))) hf hop rfl rfl

/-- Settles O29: X is added to the operand byte, and the sum is the pointer. -/
theorem ldaIndirectXStep : Obligations.LdaIndirectXStep :=
  fun s hf hop => step_loadsA (i := .ldaIndX (s.mem.read (s.pc + 1#16))) hf hop rfl rfl

/-- Settles O30: the operand byte is the pointer, and Y is added to what it holds. -/
theorem ldaIndirectYStep : Obligations.LdaIndirectYStep :=
  fun s hf hop => step_loadsA (i := .ldaIndY (s.mem.read (s.pc + 1#16))) hf hop rfl rfl

/-- The operand of an absolute mode: low byte first, the high byte two past the opcode (R49). -/
def operandWord (s : State) : Word := s.mem.read (s.pc + 2#16) ++ s.mem.read (s.pc + 1#16)

theorem Memory.readBytes_two (m : Memory) (pc : Word) :
    m.readBytes (pc + 1#16) 2 = [m.read (pc + 1#16), m.read (pc + 2#16)] := by
  simp only [Memory.readBytes, BitVec.add_assoc]
  rfl

/-- A step at an opcode byte whose mode takes an address decodes with that address. -/
theorem decode_operandWord {op : Byte} {f : Word → Instr} (hwidth : (entryOf op).mode.width = 2)
    (hf : ∀ lo hi, decode [op, lo, hi] = .ok (f (hi ++ lo), [])) :
    decode (op :: s.mem.readBytes (s.pc + 1#16) (entryOf op).mode.width) = .ok (f (operandWord s), []) := by
  rw [hwidth, Memory.readBytes_two, hf, operandWord]

/-- Settles O26: the operand is the address. -/
theorem ldaAbsoluteStep : Obligations.LdaAbsoluteStep :=
  fun s hf hop => step_loadsA (i := .ldaAbs (operandWord s)) hf hop (decode_operandWord rfl fun _ _ => rfl) rfl

/-- Settles O27: X is added to the operand. -/
theorem ldaAbsoluteXStep : Obligations.LdaAbsoluteXStep :=
  fun s hf hop => step_loadsA (i := .ldaAbsX (operandWord s)) hf hop (decode_operandWord rfl fun _ _ => rfl) rfl

/-- Settles O28: Y is added to the operand. -/
theorem ldaAbsoluteYStep : Obligations.LdaAbsoluteYStep :=
  fun s hf hop => step_loadsA (i := .ldaAbsY (operandWord s)) hf hop (decode_operandWord rfl fun _ _ => rfl) rfl

end Sys2Proof.Machine
end

section
/-! PROOFS. Where a step leaves PC (spec/41_dispatch.md section 1). -/

namespace Sys2Proof.Machine

open Sys2Proof.Safety

variable {s t : State}

/-- A step passes as many bytes as the opcode's length says: the fetch reads that many, and they are the encoding. -/
theorem step_pc (h : step s = .next t) : t.pc = s.pc + BitVec.ofNat 16 (instrLength (nextOpcode s)) := by
  obtain ⟨hf, -⟩ := step_next_inv _ s t h
  obtain ⟨i, t', henc, -, hexec, hstep⟩ := exists_step_eq_exec hf
  cases hstep.symm.trans h
  rw [exec_pc hexec, henc, fetchBytes, Memory.readBytes_length]
  rfl

/-- The length column of R72's table. -/
theorem ofNat_instrLength (op : Byte) :
    BitVec.ofNat 16 (instrLength op) =
      if op ∈ [0xA9#8, 0xA5#8, 0xB5#8, 0xA1#8, 0xB1#8] then 2#16
      else if op ∈ [0xAD#8, 0xBD#8, 0xB9#8] then 3#16 else 1#16 := by
  revert op
  decide

/-- LDA abs at 0xFFFE takes its operand across the wrap (R72, D4). -/
theorem step_ldaAbsolute_wraps (hf : s.fault = none) (hpc : s.pc = 0xFFFE#16) (hop : nextOpcode s = 0xAD#8)
    (h : step s = .next t) :
    t.a = s.mem.read (s.mem.read 0x0000#16 ++ s.mem.read 0xFFFF#16) ∧ t.pc = 0x0001#16 := by
  obtain ⟨t', hstep, ha, -, hpc', -⟩ := ldaAbsoluteStep s hf hop
  cases hstep.symm.trans h
  rw [ha, hpc', hpc]
  exact ⟨rfl, rfl⟩

/-- Settles O11: the length of the fetched opcode, and the case at 0xFFFE. -/
theorem stepAdvancesPcByLength : Obligations.StepAdvancesPcByLength := by
  intro s hf
  obtain ⟨t, hstep⟩ := step_completes hf
  exact ⟨t, hstep, by rw [step_pc hstep, ofNat_instrLength], fun hpc hop => step_ldaAbsolute_wraps hf hpc hop hstep⟩

end Sys2Proof.Machine
end

section
/-! PROOFS. The decoder under either configuration, and what refusing the seven opcodes changes (spec/00_scope.md R7; spec/92_eei_decisions.md D2). -/

namespace Sys2Proof

/-- The seven opcode bytes that `LDA_EXTENDED_MODES` governs. -/
def extendedOpcodes : List Byte := [0xA5#8, 0xB5#8, 0xAD#8, 0xBD#8, 0xB9#8, 0xA1#8, 0xB1#8]

theorem mem_extendedOpcodes (op : Byte) :
    op ∈ extendedOpcodes ↔ (entryOf op).operation = .lda ∧ (entryOf op).mode ≠ .immediate := by
  revert op
  decide

/-- A configuration can only refuse: where it does not, the decoder is the default one. -/
theorem decodeWith_cons (c : Config) (op : Byte) (rest : List Byte) :
    decodeWith c (op :: rest) =
      if c.ldaExtendedModes = .refused ∧ op ∈ extendedOpcodes then .error (.extendedModeRefused op)
      else decode (op :: rest) := by
  simp only [mem_extendedOpcodes]
  cases hop : (entryOf op).operation <;> simp [decode, decodeWith, hop, Config.standard]

theorem decode_of_decodeWith {c : Config} {bytes : List Byte} {r : Instr × List Byte}
    (h : decodeWith c bytes = .ok r) : decode bytes = .ok r := by
  cases bytes with
  | nil => cases h
  | cons op rest =>
    rw [decodeWith_cons] at h
    split at h
    · cases h
    · exact h

end Sys2Proof

namespace Sys2Proof.Machine

open Sys2Proof.Safety

variable {c : Config} {s t : State}

theorem stepWith_of_no_fault (c : Config) (hf : s.fault = none) :
    stepWith c s = cycle c (State.withRunState s .running) := by
  rw [stepWith, hf]

theorem decodeWith_fetchBytes (c : Config) (m : Memory) (pc : Word) :
    decodeWith c (fetchBytes m pc) =
      if c.ldaExtendedModes = .refused ∧ m.read pc ∈ extendedOpcodes then .error (.extendedModeRefused (m.read pc))
      else decode (fetchBytes m pc) := by
  rw [fetchBytes_eq_cons rfl, decodeWith_cons]

/-- Settles O58: the two branches of the decoder, seen from the step. -/
theorem refusedModesRefuseOnlySevenOpcodes : Obligations.RefusedModesRefuseOnlySevenOpcodes := by
  intro s hf
  have hdec := decodeWith_fetchBytes { ldaExtendedModes := .refused } s.mem s.pc
  refine ⟨fun hop => ?_, fun hop => ?_⟩
  · rw [if_pos ⟨rfl, hop⟩] at hdec
    rw [stepWith_of_no_fault _ hf, cycle, State.withRunState_mem, State.withRunState_pc, hdec]
    rfl
  · rw [if_neg fun ⟨_, hmem⟩ => hop hmem] at hdec
    rw [step, stepWith_of_no_fault _ hf, stepWith_of_no_fault _ hf, cycle, cycle,
      State.withRunState_mem, State.withRunState_pc, hdec, decode]

/-- HALT is the instruction of 0x00 alone (R50, R74). -/
theorem eq_halt_iff_of_decode_fetchBytes {i : Instr} {rest : List Byte}
    (hd : decode (fetchBytes s.mem s.pc) = .ok (i, rest)) : i = .halt ↔ nextOpcode s = 0x00#8 := by
  constructor
  · rintro rfl
    obtain ⟨-, henc⟩ := encode_of_decode hd
    rw [fetchBytes_eq_cons rfl] at henc
    exact List.head_eq_of_cons_eq henc
  · intro hop
    rw [fetchBytes_eq_cons hop] at hd
    cases hd
    rfl

/-- The run state after a step under any configuration: Running is set first, and HALT alone overwrites it. -/
theorem stepWith_runState (h : stepWith c s = .next t) :
    t.runState = if nextOpcode s = 0x00#8 then .halted else .running := by
  obtain ⟨-, i, rest, hd, hexec⟩ := step_next_inv c s t h
  rw [exec_runState hexec]
  simp only [eq_halt_iff_of_decode_fetchBytes (decode_of_decodeWith hd), State.withRunState_runState]

/-- Settles O17: the run state of a step with the default configuration. -/
theorem stepHaltsExactlyOnHaltOpcode : Obligations.StepHaltsExactlyOnHaltOpcode :=
  fun _ _ h => stepWith_runState h

theorem stepWith_halted_iff (h : stepWith c s = .next t) : t.runState = .halted ↔ nextOpcode s = 0x00#8 := by
  by_cases hop : nextOpcode s = 0x00#8 <;> simp [stepWith_runState h, hop]

end Sys2Proof.Machine
end

section
/-! PROOFS. The step is R71's pseudocode, whose resolver reads the operand bytes in memory (spec/41_dispatch.md R71; spec/40_addressing_modes.md R57 to R68). -/

namespace Sys2Proof.Machine

variable {s : State}

theorem advance_loadA_advance (s : State) (v : Byte) (m n : Nat) :
    State.advance (loadA (State.advance s m) v) n = State.advance (loadA s v) (m + n) := by
  simp only [State.advance, State.withPc, loadA_pc, BitVec.ofNat_add, BitVec.add_assoc]
  rfl

/-- R71 for an LDA entry whose mode resolves: the byte at the address goes to A, and PC passes opcode and operand. -/
theorem runEntry_lda (entry : Entry) (s : State) (ea : EA) (hlda : entry.operation = .lda)
    (hea : resolve entry.mode (s.pc + 1#16) s.x s.y s.mem = some ea) :
    runEntry entry s = State.advance (loadA s (s.mem.read ea.address)) (1 + entry.mode.width) := by
  have hmode : entry.mode ≠ .noneAddressing := by
    intro hnone
    rw [hnone] at hea
    cases hea
  rw [← advance_loadA_advance]
  simp [runEntry, hlda, hmode, hea, operandHandler]

/-- The handler R71 calls does what the decoded instruction means (R50, R53); its encoding tells the opcode byte and so the entry. -/
theorem exec_eq_dispatchPseudocode {i : Instr} {rest : List Byte} (hd : decode (fetchBytes s.mem s.pc) = .ok (i, rest)) :
    exec i s = .next (dispatchPseudocode s) := by
  obtain ⟨op, hop⟩ : ∃ op, s.mem.read s.pc = op := ⟨_, rfl⟩
  rw [fetchBytes_eq_cons hop] at hd
  rw [dispatchPseudocode, hop]
  have hlda (ea : EA) := runEntry_lda (entryOf op) s ea
  obtain ⟨hwf, henc⟩ := encode_of_decode hd
  cases i with
  | nopUnmapped b =>
    obtain rfl : op = b := List.head_eq_of_cons_eq henc
    rw [entryOf_unmapped op ((wf_nopUnmapped op).mp hwf)]
    rfl
  | halt | tax | inx =>
    obtain rfl := List.head_eq_of_cons_eq henc
    rfl
  | ldaImm | ldaZp | ldaZpX | ldaAbs | ldaAbsX | ldaAbsY | ldaIndX | ldaIndY =>
    obtain rfl := List.head_eq_of_cons_eq henc
    cases hd
    exact congrArg Host.Outcome.next (hlda _ rfl rfl).symm

theorem stepWith_of_fault {r : FaultRecord} (hf : s.fault = some r) (c : Config) :
    stepWith c s = .fault (.unsupportedAddressingMode r) := by
  rw [stepWith, hf]

/-- Settles O9: fetch and decode as the table gives them, then the handler. -/
theorem stepFollowsDispatchPseudocode : Obligations.StepFollowsDispatchPseudocode := by
  refine fun s => ⟨fun hf => ?_, fun r hf => stepWith_of_fault hf _⟩
  obtain ⟨i, hd, -⟩ := exists_decode_fetchBytes s.mem s.pc
  exact (step_eq_exec hf hd).trans (exec_eq_dispatchPseudocode (s := State.withRunState s .running) hd)

end Sys2Proof.Machine
end

section
/-! PROOFS. Reads after the longer writes: two bytes, and a list of bytes (spec/20_memory.md R34, R35; spec/70_reset_and_hazards.md R109). -/

namespace Sys2Proof.Machine

theorem Memory.read_write16 (m : Memory) (addr v other : Word) :
    (m.write16 addr v).read other =
      if other = addr + 1#16 then highByte v else if other = addr then lowByte v else m.read other := by
  simp only [Memory.write16, Memory.read_write]

theorem word_ne_succ (addr : Word) : addr ≠ addr + 1#16 := by
  bv_omega

/-- A two-byte write reads back: its high byte is not at its low byte's address, even at 0xFFFF. -/
theorem Memory.read16_write16 (m : Memory) (addr v : Word) : (m.write16 addr v).read16 addr = v := by
  rw [Memory.read16, Memory.read_write16, Memory.read_write16, if_pos rfl, if_neg (word_ne_succ addr), if_pos rfl,
    joinBytes_high_low]

/-- Settles O44: the two bytes, the read-back, and the wrap as the case of 0xFFFF. -/
theorem twoByteWriteReadsBack : Obligations.TwoByteWriteReadsBack :=
  fun m addr v => ⟨Memory.read_write16 m addr v, Memory.read16_write16 m addr v,
    Memory.read_write16 m 0xFFFF#16 v 0x0000#16, rfl⟩

/-- After bytes written at rising addresses, no more of them than there are addresses, an address reads the byte at its distance
from the first one, and as before where there is none. -/
theorem Memory.read_writeBytes (bytes : List Byte) (m : Memory) (addr other : Word) (hlen : bytes.length ≤ 65536) :
    (m.writeBytes addr bytes).read other = bytes.getD (other - addr).toNat (m.read other) := by
  induction bytes generalizing m addr with
  | nil => rfl
  | cons b rest ih =>
    rw [List.length_cons] at hlen
    rw [Memory.writeBytes, ih _ _ (by omega), Memory.read_write]
    by_cases heq : other = addr
    · subst heq
      have hlast : rest.length ≤ (other - (other + 1#16)).toNat := by bv_omega
      rw [if_pos rfl, List.getD_eq_default _ _ hlast, BitVec.sub_self]
      rfl
    · have hsucc : (other - addr).toNat = (other - (addr + 1#16)).toNat + 1 := by bv_omega
      rw [if_neg heq, hsucc, List.getD_cons_succ]

theorem Memory.readBytes_writeBytes (bytes : List Byte) (m : Memory) (addr : Word) (hlen : bytes.length ≤ 65536) :
    (m.writeBytes addr bytes).readBytes addr bytes.length = bytes := by
  induction bytes generalizing m addr with
  | nil => rfl
  | cons b rest ih =>
    have hhead : (m.writeBytes addr (b :: rest)).read addr = b := by
      rw [Memory.read_writeBytes _ _ _ _ hlen, BitVec.sub_self]
      rfl
    rw [List.length_cons, Memory.readBytes, hhead, Memory.writeBytes, ih _ _ (Nat.le_of_succ_le hlen)]

end Sys2Proof.Machine
end

section
/-! PROOFS. An encoding stored at PC is what the next step runs (spec/30_encoding.md R47, R55; spec/41_dispatch.md R71). -/

namespace Sys2Proof.Machine

open Sys2Proof.Laws

/-- The lengths the per-instruction lemmas of Laws give, as one fact about every instruction. -/
theorem encode_eq_cons {i : Instr} (hi : i.wf = true) :
    ∃ op operands, encode i = op :: operands ∧ operands.length = (entryOf op).mode.width := by
  cases i with
  | halt => exact EncodedLength.halt hi
  | nopUnmapped op => exact EncodedLength.nopUnmapped op hi
  | ldaIndX b1 => exact EncodedLength.ldaIndX b1 hi
  | ldaZp b1 => exact EncodedLength.ldaZp b1 hi
  | ldaImm b1 => exact EncodedLength.ldaImm b1 hi
  | tax => exact EncodedLength.tax hi
  | ldaAbs addr => exact EncodedLength.ldaAbs addr hi
  | ldaIndY b1 => exact EncodedLength.ldaIndY b1 hi
  | ldaZpX b1 => exact EncodedLength.ldaZpX b1 hi
  | ldaAbsY addr => exact EncodedLength.ldaAbsY addr hi
  | ldaAbsX addr => exact EncodedLength.ldaAbsX addr hi
  | inx => exact EncodedLength.inx hi

/-- The fetch reads as many bytes as the stored opcode asks for, which are the stored ones. -/
theorem fetchBytes_writeBytes_encode {i : Instr} (hi : i.wf = true) (m : Memory) (pc : Word) :
    fetchBytes (m.writeBytes pc (encode i)) pc = encode i := by
  obtain ⟨op, operands, henc, hwidth⟩ := encode_eq_cons hi
  have hlen : operands.length ≤ 2 := hwidth ▸ Mode.width_le_two _
  have hread := Memory.readBytes_writeBytes (op :: operands) m pc (by rw [List.length_cons]; omega)
  rw [List.length_cons, Memory.readBytes] at hread
  obtain ⟨hop, hoperands⟩ := List.cons.inj hread
  rw [henc, fetchBytes_eq_cons hop, ← hwidth, hoperands]

/-- Settles O8: the stored bytes are fetched, and decode to the instruction they encode. -/
theorem stepRunsEncodedInstruction : Obligations.StepRunsEncodedInstruction := by
  intro s i hf hi
  have hd := decode_encode hi []
  rw [List.append_nil, ← fetchBytes_writeBytes_encode hi s.mem s.pc] at hd
  exact step_eq_exec (s := State.withMem s (s.mem.writeBytes s.pc (encode i))) hf hd

end Sys2Proof.Machine
end

section
/-! PROOFS. The remaining modes of the resolver, and the fault that NoneAddressing raises (spec/40_addressing_modes.md R60, R63, R64, R69; spec/60_exceptions.md R95). -/

namespace Sys2Proof.Machine

variable {s : State} {r : FaultRecord}

section

variable (pc : Word) (x y : Byte) (m : Memory)

@[simp] theorem resolve_immediate : resolve .immediate pc x y m = some (.imm pc) := rfl

@[simp] theorem resolve_zeroPageY : resolve .zeroPageY pc x y m = some (.addr (zext16 (m.read pc + y))) := rfl

@[simp] theorem resolve_absolute : resolve .absolute pc x y m = some (.addr (m.read16 pc)) := rfl

@[simp] theorem resolve_noneAddressing : resolve .noneAddressing pc x y m = none := rfl

end

/-- Settles O41: the four answers, the absolute operand written out in bytes. -/
theorem resolverRemainingModes : Obligations.ResolverRemainingModes :=
  fun pc x y m => ⟨resolve_immediate pc x y m, resolve_zeroPageY pc x y m, resolve_absolute pc x y m,
    resolve_noneAddressing pc x y m, rfl⟩

/-- An LDA entry of mode NoneAddressing only raises the fault, past the opcode byte (R95). -/
theorem runEntry_noneAddressing (op : Byte) (s : State) :
    runEntry ⟨op, .lda, .noneAddressing⟩ s = raiseUnsupportedAddressingMode op s.pc (State.advance s 1) := rfl

theorem hostRun_of_fault (hf : s.fault = some r) (c : Config) (fuel : Nat) : hostRun c fuel s = none := by
  cases fuel with
  | zero => rfl
  | succ n => rw [hostRun, stepWith_of_fault hf]

/-- Settles O45: the entry's effect, the stop of every step and run after it, and that no instruction sets the record. -/
theorem noneAddressingRaisesStickyFault : Obligations.NoneAddressingRaisesStickyFault := by
  refine ⟨fun op s => ?_, fun s t h => stepWith_fault h⟩
  rw [runEntry_noneAddressing]
  exact ⟨rfl, rfl, rfl, rfl, rfl, rfl, rfl, rfl, stepWith_of_fault rfl _, fun c fuel => hostRun_of_fault rfl c fuel⟩

/-- Settles O46: reset() and load() do not write the record, and step and run stop at it. -/
theorem faultRecordIsSticky : Obligations.FaultRecordIsSticky := by
  refine ⟨rfl, fun op s => by rw [runEntry_noneAddressing]; rfl, fun s r hf => ?_⟩
  refine ⟨stepWith_of_fault hf _, hf, fun program t h => ?_, fun c fuel => hostRun_of_fault hf c fuel⟩
  cases hostLoad_inv h
  exact hf

end Sys2Proof.Machine
end

section
/-! PROOFS. new(), reset() and load() (spec/70_reset_and_hazards.md R108 to R113; spec/60_exceptions.md R96). -/

namespace Sys2Proof.Machine

/-- Settles O47: the literal of `State.reset`, whose memory lists no byte. -/
theorem newCoreIsZeroed : Obligations.NewCoreIsZeroed :=
  ⟨rfl, rfl, rfl, rfl, rfl, rfl, rfl, rfl, fun _ => rfl⟩

/-- Settles O48: reset() as one update of the state. -/
theorem resetClearsRegistersAndLoadsVector : Obligations.ResetClearsRegistersAndLoadsVector :=
  ⟨fun s => by rw [hostReset_eq]; exact ⟨rfl, rfl, rfl, rfl, rfl, rfl, rfl, rfl⟩, rfl⟩

/-- Settles O49: reset() reads memory only, which it keeps. -/
theorem resetIsIdempotent : Obligations.ResetIsIdempotent := by
  intro s
  simp only [hostReset_eq]

/-- Settles O50: both sides of the bound. -/
theorem tooLargeProgramIsRejected : Obligations.TooLargeProgramIsRejected :=
  fun program s => ⟨hostLoad_tooLarge program s, fun hlen => ⟨_, hostLoad_ok program s hlen.le⟩, rfl⟩

/-- What each address reads after a program and the reset vector are placed, the vector last and so on top (R109, D9). -/
theorem read_loadedMemory (program : List Byte) (m : Memory) (addr : Word) (hlen : program.length ≤ 0x8000) :
    ((m.writeBytes 0x8000#16 program).write16 0xFFFC#16 0x8000#16).read addr =
      if addr = 0xFFFC#16 then 0x00#8
      else if addr = 0xFFFD#16 then 0x80#8
      else if 0x8000 ≤ addr.toNat ∧ addr.toNat < 0x8000 + program.length then
        program.getD (addr.toNat - 0x8000) 0x00#8
      else m.read addr := by
  have hnext : 0xFFFC#16 + 1#16 = 0xFFFD#16 := rfl
  rw [Memory.read_write16, hnext, Memory.read_writeBytes _ _ _ _ (by omega)]
  by_cases hlow : addr = 0xFFFC#16
  · subst hlow
    rfl
  by_cases hhigh : addr = 0xFFFD#16
  · subst hhigh
    rfl
  rw [if_neg hhigh, if_neg hlow, if_neg hlow, if_neg hhigh]
  split
  · next hin =>
    have hoff : (addr - 0x8000#16).toNat = addr.toNat - 0x8000 := by bv_omega
    have hlt : addr.toNat - 0x8000 < program.length := by omega
    rw [hoff, List.getD_eq_getElem _ _ hlt, List.getD_eq_getElem _ _ hlt]
  · next hout =>
    exact List.getD_eq_default _ _ (by bv_omega)

/-- Settles O51: a load as one update of the state, and what its memory reads. -/
theorem loadPlacesProgramAndVector : Obligations.LoadPlacesProgramAndVector :=
  fun program s => ⟨hostLoad_tooLarge program s, fun hlen =>
    ⟨_, hostLoad_ok program s hlen, rfl, rfl, rfl, rfl, rfl, rfl, rfl,
      fun addr => read_loadedMemory program s.mem addr hlen⟩⟩

/-- The vector that a load writes is where reset() starts. -/
theorem hostReset_pc_of_hostLoad {program : List Byte} {s t : State} (h : hostLoad program s = .ok t) :
    (hostReset t).pc = 0x8000#16 := by
  cases hostLoad_inv h
  exact Memory.read16_write16 _ 0xFFFC#16 0x8000#16

/-- Settles O52: load_and_run() in its two cases. -/
theorem loadAndRunStartsAtTheProgram : Obligations.LoadAndRunStartsAtTheProgram := by
  refine fun c fuel program s => ⟨fun hlen => ?_, fun hlen => ?_⟩
  · rw [hostLoadAndRun, hostLoad_tooLarge program s hlen]
  · have hload := hostLoad_ok program s hlen
    exact ⟨_, hload, hostReset_pc_of_hostLoad hload, by rw [hostLoadAndRun, hload]⟩

end Sys2Proof.Machine
end

section
/-! PROOFS. run() and run_n() against each other and against plain stepping (spec/41_dispatch.md R76 to R78). -/

namespace Sys2Proof.Machine

open Sys2Proof.Safety

variable {c : Config} {s t u : State} {k fuel : Nat}

theorem RunState.eq_running_of_ne_halted {r : RunState} (h : r ≠ .halted) : r = .running := by
  cases r with
  | running => rfl
  | halted => exact absurd rfl h

/-- A first step that halts ends run() and run_n() both. -/
theorem run_of_halting_step (hstep : stepWith c s = .next u) (hu : u.runState = .halted) (k : Nat) :
    hostRun c (k + 1) s = some u ∧ hostRunN c (k + 1) s = .next u := by
  obtain ⟨hrun, hrunN, -⟩ := run_of_next c k s u hstep
  rw [if_pos hu] at hrun hrunN
  exact ⟨hrun, hrunN⟩

/-- After a first step that does not halt, both go on from its state. -/
theorem run_of_running_step (hstep : stepWith c s = .next u) (hu : u.runState ≠ .halted) (k : Nat) :
    hostRun c (k + 1) s = hostRun c k u ∧ hostRunN c (k + 1) s = hostRunN c k u := by
  obtain ⟨hrun, hrunN, -⟩ := run_of_next c k s u hstep
  rw [if_neg hu] at hrun hrunN
  exact ⟨hrun, hrunN⟩

theorem stepsWith_succ_of_next (hstep : stepWith c s = .next u) (k : Nat) :
    stepsWith c (k + 1) s = stepsWith c k u := by
  obtain ⟨-, -, hsteps⟩ := run_of_next c k s u hstep
  exact hsteps

theorem hostRunN_of_hostRun (h : hostRun c k s = some t) : hostRunN c k s = .next t := by
  refine hostRun_induction (motive := fun k s => hostRunN c k s = .next t) ?halt ?go h
  case halt => exact fun n s hstep ht => (run_of_halting_step hstep ht n).2
  case go => exact fun n s u hstep hu ih => (run_of_running_step hstep hu n).2.trans ih

/-- Where run() returns at all, no run_n(k) meets the fault or a refusal. -/
theorem hostRunN_completes_of_hostRun (h : hostRun c fuel s = some t) (k : Nat) : ∃ u, hostRunN c k s = .next u := by
  refine hostRun_induction (motive := fun _ s => ∀ k, ∃ u, hostRunN c k s = .next u) ?halt ?go h k
  case halt =>
    intro n s hstep ht k
    cases k with
    | zero => exact ⟨s, rfl⟩
    | succ k => exact ⟨t, (run_of_halting_step hstep ht k).2⟩
  case go =>
    intro n s u hstep hu ih k
    cases k with
    | zero => exact ⟨s, rfl⟩
    | succ k => exact (run_of_running_step hstep hu k).2 ▸ ih k

theorem hostRun_eq_none_of_hostRunN (h : ∀ u, hostRunN c k s ≠ .next u) (m : Nat) : hostRun c m s = none := by
  refine Option.eq_none_iff_forall_ne_some.mpr fun t hrun => ?_
  obtain ⟨u, hu⟩ := hostRunN_completes_of_hostRun hrun k
  exact h u hu

/-- A run_n() that ends in a state took a step, which halted or left a state from which it went on. -/
theorem hostRunN_succ_inv (h : hostRunN c (k + 1) s = .next t) :
    ∃ u, stepWith c s = .next u ∧
      ((u.runState = .halted ∧ u = t) ∨ (u.runState ≠ .halted ∧ hostRunN c k u = .next t)) := by
  cases hstep : stepWith c s with
  | next u =>
    by_cases hu : u.runState = .halted
    · exact ⟨u, rfl, .inl ⟨hu, Host.Outcome.next.inj ((run_of_halting_step hstep hu k).2.symm.trans h)⟩⟩
    · exact ⟨u, rfl, .inr ⟨hu, (run_of_running_step hstep hu k).2.symm.trans h⟩⟩
  | fault r => simp [hostRunN, hstep] at h
  | refused r => simp [hostRunN, hstep] at h

/-- How a run_n(k) ends in a state: it met the halt on the way, or it is Running after exactly k steps and run() goes on from there. -/
def RunNEnd (c : Config) (k : Nat) (s t : State) : Prop :=
  (t.runState = .halted ∧ hostRun c k s = some t ∧ ∃ j, 0 < j ∧ j ≤ k ∧ stepsWith c j s = .next t) ∨
    (t.runState = .running ∧ stepsWith c k s = .next t ∧ ∀ m, hostRun c (k + m) s = hostRun c m t)

theorem runNEnd_of_halting_step (hstep : stepWith c s = .next t) (ht : t.runState = .halted) (k : Nat) :
    RunNEnd c (k + 1) s t :=
  .inl ⟨ht, (run_of_halting_step hstep ht k).1, 1, Nat.one_pos, Nat.le_add_left 1 k, stepsWith_succ_of_next hstep 0⟩

/-- A step that does not halt puts one more step before either end. -/
theorem runNEnd_of_running_step (hstep : stepWith c s = .next u) (hu : u.runState ≠ .halted) (h : RunNEnd c k u t) :
    RunNEnd c (k + 1) s t := by
  have hrun (n : Nat) : hostRun c (n + 1) s = hostRun c n u := (run_of_running_step hstep hu n).1
  obtain ⟨ht, hend, j, hj, hjk, hsteps⟩ | ⟨ht, hsteps, hgo⟩ := h
  · exact .inl ⟨ht, (hrun k).trans hend, j + 1, Nat.succ_pos j, Nat.succ_le_succ hjk,
      (stepsWith_succ_of_next hstep j).trans hsteps⟩
  · refine .inr ⟨ht, (stepsWith_succ_of_next hstep k).trans hsteps, fun m => ?_⟩
    rw [Nat.add_right_comm, hrun, hgo]

/-- A first step settles it, given the ends from a Running state. -/
theorem runNEnd_succ (hgo : ∀ u, u.runState = .running → hostRunN c k u = .next t → RunNEnd c k u t)
    (h : hostRunN c (k + 1) s = .next t) : RunNEnd c (k + 1) s t := by
  obtain ⟨u, hstep, ⟨hu, rfl⟩ | ⟨hu, hrest⟩⟩ := hostRunN_succ_inv h
  · exact runNEnd_of_halting_step hstep hu k
  · exact runNEnd_of_running_step hstep hu (hgo u (RunState.eq_running_of_ne_halted hu) hrest)

theorem runNEnd_of_running (hs : s.runState = .running) (h : hostRunN c k s = .next t) : RunNEnd c k s t := by
  induction k generalizing s with
  | zero =>
    cases h
    exact .inr ⟨hs, rfl, fun m => by rw [Nat.zero_add]⟩
  | succ k ih => exact runNEnd_succ (fun u hu hrest => ih hu hrest) h

/-- Settles O53: from any state the first step is taken apart, and from then on the state is Running. -/
theorem runNIsAPrefixOfRun : Obligations.RunNIsAPrefixOfRun := by
  refine fun c k s => ⟨rfl, fun t => hostRunN_of_hostRun, fun t hk h => ?_, fun r hr => ?_, fun r hr => ?_⟩
  · obtain ⟨n, rfl⟩ := Nat.exists_eq_add_one_of_ne_zero hk.ne'
    exact runNEnd_succ (fun u => runNEnd_of_running) h
  · exact hostRun_eq_none_of_hostRunN fun u hu => by cases hr.symm.trans hu
  · exact hostRun_eq_none_of_hostRunN fun u hu => by cases hr.symm.trans hu

end Sys2Proof.Machine
end

section
/-! PROOFS. run() returns exactly at the first fetch of the halt opcode (spec/41_dispatch.md R76 to R79). -/

namespace Sys2Proof.Machine

open Sys2Proof.Safety

variable {c : Config} {s t u : State} {k fuel : Nat}

theorem hostRun_halted (h : hostRun c fuel s = some t) : t.runState = .halted :=
  hostRun_induction (motive := fun _ _ => t.runState = .halted) (fun _ _ _ ht => ht) (fun _ _ _ _ _ ih => ih) h

/-- More fuel does not change the end. -/
theorem hostRun_succ (h : hostRun c fuel s = some t) : hostRun c (fuel + 1) s = some t := by
  refine hostRun_induction (motive := fun n s => hostRun c (n + 1) s = some t) ?halt ?go h
  case halt => exact fun n s hstep ht => (run_of_halting_step hstep ht (n + 1)).1
  case go => exact fun n s u hstep hu ih => (run_of_running_step hstep hu (n + 1)).1.trans ih

/-- `k` steps from `s` lead to `u`, which fetches the halt opcode, and no state before `u` does. -/
def FirstHaltFetch (c : Config) (k : Nat) (s u : State) : Prop :=
  stepsWith c k s = .next u ∧ nextOpcode u = 0x00#8 ∧ ∀ j v, j < k → stepsWith c j s = .next v → nextOpcode v ≠ 0x00#8

theorem firstHaltFetch_zero (hop : nextOpcode s = 0x00#8) : FirstHaltFetch c 0 s s :=
  ⟨rfl, hop, fun j _ hj => absurd hj (Nat.not_lt_zero j)⟩

theorem firstHaltFetch_succ {v : State} (hstep : stepWith c s = .next v) (hop : nextOpcode s ≠ 0x00#8)
    (h : FirstHaltFetch c k v u) : FirstHaltFetch c (k + 1) s u := by
  obtain ⟨hsteps, hhalt, hfirst⟩ := h
  refine ⟨(stepsWith_succ_of_next hstep k).trans hsteps, hhalt, fun j w hj hw => ?_⟩
  cases j with
  | zero =>
    cases hw
    exact hop
  | succ j =>
    rw [stepsWith_succ_of_next hstep] at hw
    exact hfirst j w (Nat.lt_of_succ_lt_succ hj) hw

/-- A run that returns ends with the step that executes the first halt opcode fetched. -/
theorem exists_firstHaltFetch_of_hostRun (h : hostRun c fuel s = some t) :
    ∃ k u, k < fuel ∧ FirstHaltFetch c k s u ∧ stepWith c u = .next t := by
  refine hostRun_induction (motive := fun n s => ∃ k u, k < n ∧ FirstHaltFetch c k s u ∧ stepWith c u = .next t)
    ?halt ?go h
  case halt =>
    exact fun n s hstep ht => ⟨0, s, Nat.succ_pos n, firstHaltFetch_zero ((stepWith_halted_iff hstep).mp ht), hstep⟩
  case go =>
    rintro n s v hstep hv ⟨k, u, hk, hfirst, hlast⟩
    exact ⟨k + 1, u, Nat.succ_lt_succ hk, firstHaltFetch_succ hstep (mt (stepWith_halted_iff hstep).mpr hv) hfirst, hlast⟩

theorem step_pc_of_haltOpcode (hop : nextOpcode s = 0x00#8) (h : step s = .next t) : t.pc = s.pc + 1#16 := by
  rw [step_pc h, hop]
  rfl

/-- Settles O54: the run's last step fetches 0x00, and none before it does. -/
theorem runEndsWithHaltStep : Obligations.RunEndsWithHaltStep := by
  intro fuel s t h
  obtain ⟨k, u, hk, ⟨hsteps, hop, hfirst⟩, hlast⟩ := exists_firstHaltFetch_of_hostRun h
  simp only [stepsWith_standard] at hsteps hfirst
  exact ⟨hostRun_halted h, hostRun_succ h, k, u, hk, hsteps, hop, hlast, step_pc_of_haltOpcode hop hlast, hfirst⟩

/-- Steps that lead to a state which fetches 0x00 lead run() to a halt, there or before. -/
theorem runReturns_of_stepsWith (hf : s.fault = none) (hsteps : stepsWith Config.standard k s = .next u)
    (hop : nextOpcode u = 0x00#8) : ∃ t, RunReturns Config.standard s t := by
  induction k generalizing s with
  | zero =>
    cases hsteps
    obtain ⟨t, hstep⟩ := step_completes hf
    exact ⟨t, 1, (run_of_halting_step hstep ((stepWith_halted_iff hstep).mpr hop) 0).1⟩
  | succ k ih =>
    obtain ⟨v, hstep⟩ := step_completes hf
    by_cases hv : v.runState = .halted
    · exact ⟨v, 1, (run_of_halting_step hstep hv 0).1⟩
    · rw [stepsWith_succ_of_next hstep] at hsteps
      obtain ⟨t, n, hrun⟩ := ih (stepWith_fault hstep) hsteps
      exact ⟨t, n + 1, (run_of_running_step hstep hv n).1.trans hrun⟩

/-- Settles O55: the first fetch of 0x00 in one direction, and steps up to it in the other. -/
theorem runReturnsIffHaltIsFetched : Obligations.RunReturnsIffHaltIsFetched := by
  intro s hf
  simp only [← stepsWith_standard]
  constructor
  · rintro ⟨t, fuel, h⟩
    obtain ⟨k, u, -, ⟨hsteps, hop, -⟩, -⟩ := exists_firstHaltFetch_of_hostRun h
    exact ⟨k, u, hsteps, hop⟩
  · rintro ⟨k, u, hsteps, hop⟩
    exact runReturns_of_stepsWith hf hsteps hop

/-- Settles O56: memory stays without a zero byte, so no opcode fetched from it is 0x00. -/
theorem runWithoutZeroByteDiverges : Obligations.RunWithoutZeroByteDiverges := by
  refine fun c s hmem fuel => Option.eq_none_iff_forall_ne_some.mpr fun t h => ?_
  refine hostRun_induction (motive := fun _ s => ¬ ∀ addr, s.mem.read addr ≠ 0x00#8) ?halt ?go h hmem
  case halt => exact fun n s hstep ht hmem => hmem s.pc ((stepWith_halted_iff hstep).mp ht)
  case go => exact fun n s u hstep _ ih hmem => ih (stepWith_mem hstep ▸ hmem)

/-- Settles O57: the first byte of an empty memory is the halt opcode. -/
theorem runOfNewCoreHaltsAtOnce : Obligations.RunOfNewCoreHaltsAtOnce :=
  ⟨_, rfl, rfl, rfl, rfl, rfl, rfl, rfl⟩

end Sys2Proof.Machine
end
